-- ==== Sys2Proof/Word.lean ====
section
/-! DEFINITION. The word types of CHIP-8 CORE (00_scope.md R6, R8) and their plainest arithmetic. -/

namespace Sys2Proof

/-- A byte of memory, a general register or a timer: 8 bits (R6). -/
abbrev Byte := BitVec 8

/-- An instruction word, `PC`, `I` or a stack entry: 16 bits (R6, R24, R27, R29). -/
abbrev Word := BitVec 16

/-- The index of a general register: the 4-bit operand `x` or `y` (30_encoding.md R74). -/
abbrev RegIdx := BitVec 4

/-- A key code, 0 to 15 (45_keypad.md R160). -/
abbrev Key := BitVec 4

/-- `sat16(v) = min(v, 0xFFFF)` (00_scope.md R9, 10_state.md R27). -/
def sat16 (v : Nat) : Word := BitVec.ofNat 16 (min v 0xFFFF)

/-- A register index is below 16. -/
theorem regIdx_lt (x : RegIdx) : x.toNat < 16 := x.isLt

end Sys2Proof
end

