-- ==== Sys2Proof/Syntax.lean ====
section
/-! DEFINITION. The instructions: one constructor per row of spec/opcode_table.json (30_encoding.md R76), with the operands of R74
in the table's argument order. -/

namespace Sys2Proof

/-- An instruction. `x`, `y` are register indices, `n` a 4-bit row count, `nn` a byte and `nnn` a 12-bit address (R74, R75). -/
inductive Instr where
  /-- `00E0` CLS (44_display.md R152). -/
  | cls
  /-- `00EE` RET (40_control_transfer.md R103). -/
  | ret
  /-- `0nnn` SYS nnn (48_system_unknown.md R190). -/
  | sys (nnn : BitVec 12)
  /-- `1nnn` JP nnn (R101). -/
  | jp (nnn : BitVec 12)
  /-- `2nnn` CALL nnn (R102). -/
  | call (nnn : BitVec 12)
  /-- `3xnn` SE Vx, nn (41_conditional_skip.md R110). -/
  | seVxNn (x : RegIdx) (nn : Byte)
  /-- `4xnn` SNE Vx, nn (R111). -/
  | sneVxNn (x : RegIdx) (nn : Byte)
  /-- `5xy0` SE Vx, Vy (R112). -/
  | seVxVy (x y : RegIdx)
  /-- `6xnn` LD Vx, nn (42_load_alu.md R120). -/
  | ldVxNn (x : RegIdx) (nn : Byte)
  /-- `7xnn` ADD Vx, nn (R121). -/
  | addVxNn (x : RegIdx) (nn : Byte)
  /-- `8xy0` LD Vx, Vy (R122). -/
  | ldVxVy (x y : RegIdx)
  /-- `8xy1` OR Vx, Vy (R123). -/
  | orVxVy (x y : RegIdx)
  /-- `8xy2` AND Vx, Vy (R124). -/
  | andVxVy (x y : RegIdx)
  /-- `8xy3` XOR Vx, Vy (R125). -/
  | xorVxVy (x y : RegIdx)
  /-- `8xy4` ADD Vx, Vy (R126). -/
  | addVxVy (x y : RegIdx)
  /-- `8xy5` SUB Vx, Vy (R127). -/
  | subVxVy (x y : RegIdx)
  /-- `8xy6` SHR Vx, with `y` extracted and not used (R128). -/
  | shrVx (x y : RegIdx)
  /-- `8xy7` SUBN Vx, Vy (R129). -/
  | subnVxVy (x y : RegIdx)
  /-- `8xyE` SHL Vx, with `y` extracted and not used (R130). -/
  | shlVx (x y : RegIdx)
  /-- `9xy0` SNE Vx, Vy (R113). -/
  | sneVxVy (x y : RegIdx)
  /-- `Annn` LD I, nnn (43_index_random.md R140). -/
  | ldINnn (nnn : BitVec 12)
  /-- `Bnnn` JP V0, nnn (R104). -/
  | jpV0 (nnn : BitVec 12)
  /-- `Cxnn` RND Vx, nn (R142). -/
  | rnd (x : RegIdx) (nn : Byte)
  /-- `Dxyn` DRW Vx, Vy, n (R153). -/
  | drw (x y : RegIdx) (n : BitVec 4)
  /-- `Ex9E` SKP Vx (45_keypad.md R163). -/
  | skp (x : RegIdx)
  /-- `ExA1` SKNP Vx (R164). -/
  | sknp (x : RegIdx)
  /-- `Fx07` LD Vx, DT (46_timers.md R170). -/
  | ldVxDt (x : RegIdx)
  /-- `Fx0A` LD Vx, K (R165). -/
  | ldVxK (x : RegIdx)
  /-- `Fx15` LD DT, Vx (R171). -/
  | ldDtVx (x : RegIdx)
  /-- `Fx18` LD ST, Vx (R172). -/
  | ldStVx (x : RegIdx)
  /-- `Fx1E` ADD I, Vx (R141). -/
  | addIVx (x : RegIdx)
  /-- `Fx29` LD F, Vx (R143). -/
  | ldFVx (x : RegIdx)
  /-- `Fx33` LD B, Vx (47_memory_transfer.md R180). -/
  | ldBVx (x : RegIdx)
  /-- `Fx55` LD [I], Vx (R181). -/
  | ldMemVx (x : RegIdx)
  /-- `Fx65` LD Vx, [I] (R182). -/
  | ldVxMem (x : RegIdx)
  /-- The fall-through: a word no descriptor matches, with the raw word (30_encoding.md R78, 48_system_unknown.md R191). -/
  | unknown (w : Word)
  deriving DecidableEq, Repr

/-- The mnemonic of an instruction: its id in the opcode table (R76, R78). -/
def Instr.mnemonic : Instr → String
  | .cls => "CLS" | .ret => "RET" | .sys _ => "SYS" | .jp _ => "JP" | .call _ => "CALL"
  | .seVxNn _ _ => "SE_VX_NN" | .sneVxNn _ _ => "SNE_VX_NN" | .seVxVy _ _ => "SE_VX_VY"
  | .ldVxNn _ _ => "LD_VX_NN" | .addVxNn _ _ => "ADD_VX_NN" | .ldVxVy _ _ => "LD_VX_VY"
  | .orVxVy _ _ => "OR_VX_VY" | .andVxVy _ _ => "AND_VX_VY" | .xorVxVy _ _ => "XOR_VX_VY"
  | .addVxVy _ _ => "ADD_VX_VY" | .subVxVy _ _ => "SUB_VX_VY" | .shrVx _ _ => "SHR_VX"
  | .subnVxVy _ _ => "SUBN_VX_VY" | .shlVx _ _ => "SHL_VX" | .sneVxVy _ _ => "SNE_VX_VY"
  | .ldINnn _ => "LD_I_NNN" | .jpV0 _ => "JP_V0" | .rnd _ _ => "RND" | .drw _ _ _ => "DRW"
  | .skp _ => "SKP" | .sknp _ => "SKNP" | .ldVxDt _ => "LD_VX_DT" | .ldVxK _ => "LD_VX_K"
  | .ldDtVx _ => "LD_DT_VX" | .ldStVx _ => "LD_ST_VX" | .addIVx _ => "ADD_I_VX"
  | .ldFVx _ => "LD_F_VX" | .ldBVx _ => "LD_B_VX" | .ldMemVx _ => "LD_MEM_VX"
  | .ldVxMem _ => "LD_VX_MEM" | .unknown _ => "UNKNOWN"

/-- The ordered list of integer arguments of the DecodedInstruction (R72, R74); the unknown instruction has none (R78). -/
def Instr.args : Instr → List Nat
  | .cls | .ret | .unknown _ => []
  | .sys nnn | .jp nnn | .call nnn | .ldINnn nnn | .jpV0 nnn => [nnn.toNat]
  | .seVxNn x nn | .sneVxNn x nn | .ldVxNn x nn | .addVxNn x nn | .rnd x nn => [x.toNat, nn.toNat]
  | .seVxVy x y | .ldVxVy x y | .orVxVy x y | .andVxVy x y | .xorVxVy x y | .addVxVy x y | .subVxVy x y
  | .shrVx x y | .subnVxVy x y | .shlVx x y | .sneVxVy x y => [x.toNat, y.toNat]
  | .drw x y n => [x.toNat, y.toNat, n.toNat]
  | .skp x | .sknp x | .ldVxDt x | .ldVxK x | .ldDtVx x | .ldStVx x | .addIVx x | .ldFVx x | .ldBVx x
  | .ldMemVx x | .ldVxMem x => [x.toNat]

end Sys2Proof
end

