-- ==== Sys2Proof/WellFormed.lean ====
section
/-! DEFINITION. Which terms of `Instr` stand for an instruction word of their own. The operand types already hold every bound of
30_encoding.md R74, so two checks are left: SYS does not take the words of CLS and RET (R77), and UNKNOWN takes only the words that
R78 lists. -/

namespace Sys2Proof

/-- The words 30_encoding.md R78 lists as unknown, by nibbles: `5xyN` and `9xyN` with `N ≠ 0`, `8xyN` with `N` in 8 to D or F,
`ExNN` and `FxNN` with a low byte that no descriptor has. -/
def isUnknownWord (w : Word) : Bool :=
  let op := w.extractLsb' 12 4
  let n := w.extractLsb' 0 4
  let nn := w.extractLsb' 0 8
  if op = 0x5 ∨ op = 0x9 then n ≠ 0
  else if op = 0x8 then n = 0x8 ∨ n = 0x9 ∨ n = 0xA ∨ n = 0xB ∨ n = 0xC ∨ n = 0xD ∨ n = 0xF
  else if op = 0xE then nn ≠ 0x9E ∧ nn ≠ 0xA1
  else if op = 0xF then
    nn ≠ 0x07 ∧ nn ≠ 0x0A ∧ nn ≠ 0x15 ∧ nn ≠ 0x18 ∧ nn ≠ 0x1E ∧ nn ≠ 0x29 ∧ nn ≠ 0x33 ∧ nn ≠ 0x55 ∧ nn ≠ 0x65
  else false

/-- An instruction term is well formed when it is the reading of some word: `SYS 0x0E0` and `SYS 0x0EE` are not (their words are CLS
and RET), nor is UNKNOWN of a word that a descriptor matches. -/
def Instr.wellFormed : Instr → Bool
  | .sys nnn => nnn ≠ 0x0E0 ∧ nnn ≠ 0x0EE
  | .unknown w => isUnknownWord w
  | .cls | .ret | .jp _ | .call _ | .seVxNn _ _ | .sneVxNn _ _ | .seVxVy _ _ | .ldVxNn _ _ | .addVxNn _ _
  | .ldVxVy _ _ | .orVxVy _ _ | .andVxVy _ _ | .xorVxVy _ _ | .addVxVy _ _ | .subVxVy _ _ | .shrVx _ _
  | .subnVxVy _ _ | .shlVx _ _ | .sneVxVy _ _ | .ldINnn _ | .jpV0 _ | .rnd _ _ | .drw _ _ _ | .skp _ | .sknp _
  | .ldVxDt _ | .ldVxK _ | .ldDtVx _ | .ldStVx _ | .addIVx _ | .ldFVx _ | .ldBVx _ | .ldMemVx _ | .ldVxMem _ => true

end Sys2Proof
end

