-- ==== Sys2Proof/Decode.lean ====
section
/-! DEFINITION. The decoder: the opcode table as the spec's ordered list of descriptors, first match wins (30_encoding.md R72 to R78);
decoding from bytes; the encoder, from the formats of R71. -/

namespace Sys2Proof

/-- `ArgumentSpec {mask, shift}` (R72, R74). -/
structure ArgumentSpec where
  mask : Word
  shift : Nat
  deriving DecidableEq, Repr

/-- "Each argument is `(word & argMask) >> argShift`" (R74). -/
def ArgumentSpec.extract (a : ArgumentSpec) (w : Word) : Nat := ((w &&& a.mask) >>> a.shift).toNat

/-- The five ArgumentSpecs of R74. -/
def argX : ArgumentSpec := ⟨0x0F00, 8⟩
def argY : ArgumentSpec := ⟨0x00F0, 4⟩
def argN : ArgumentSpec := ⟨0x000F, 0⟩
def argNN : ArgumentSpec := ⟨0x00FF, 0⟩
def argNNN : ArgumentSpec := ⟨0x0FFF, 0⟩

/-- The argument as a field of `k` bits. -/
def ArgumentSpec.field (a : ArgumentSpec) (k : Nat) (w : Word) : BitVec k := ((w &&& a.mask) >>> a.shift).setWidth k

/-- The operand fields (R74): `x = w[11:8]`, `y = w[7:4]`, `n = w[3:0]`, `nn = w[7:0]`, `nnn = w[11:0]`. -/
def fieldX (w : Word) : RegIdx := argX.field 4 w
def fieldY (w : Word) : RegIdx := argY.field 4 w
def fieldN (w : Word) : BitVec 4 := argN.field 4 w
def fieldNN (w : Word) : Byte := argNN.field 8 w
def fieldNNN (w : Word) : BitVec 12 := argNNN.field 12 w

/-- `OpcodeDescriptor` (R72): `name`, `mask`, `code`, the ordered ArgumentSpecs, and the instruction a matching word stands for. -/
structure OpcodeDescriptor where
  name : String
  mask : Word
  code : Word
  args : List ArgumentSpec
  make : Word → Instr

/-- A descriptor matches a word when `(word & mask) == code` (R73). -/
def OpcodeDescriptor.matchesWord (d : OpcodeDescriptor) (w : Word) : Bool := decide (w &&& d.mask = d.code)

/-- The rows T#1 to T#10 of the opcode table (R76). -/
def opcodeRows0to7 : List OpcodeDescriptor :=
  [⟨"CLS", 0xFFFF, 0x00E0, [], fun _ => .cls⟩,
   ⟨"RET", 0xFFFF, 0x00EE, [], fun _ => .ret⟩,
   ⟨"SYS", 0xF000, 0x0000, [argNNN], fun w => .sys (fieldNNN w)⟩,
   ⟨"JP", 0xF000, 0x1000, [argNNN], fun w => .jp (fieldNNN w)⟩,
   ⟨"CALL", 0xF000, 0x2000, [argNNN], fun w => .call (fieldNNN w)⟩,
   ⟨"SE_VX_NN", 0xF000, 0x3000, [argX, argNN], fun w => .seVxNn (fieldX w) (fieldNN w)⟩,
   ⟨"SNE_VX_NN", 0xF000, 0x4000, [argX, argNN], fun w => .sneVxNn (fieldX w) (fieldNN w)⟩,
   ⟨"SE_VX_VY", 0xF00F, 0x5000, [argX, argY], fun w => .seVxVy (fieldX w) (fieldY w)⟩,
   ⟨"LD_VX_NN", 0xF000, 0x6000, [argX, argNN], fun w => .ldVxNn (fieldX w) (fieldNN w)⟩,
   ⟨"ADD_VX_NN", 0xF000, 0x7000, [argX, argNN], fun w => .addVxNn (fieldX w) (fieldNN w)⟩]

/-- The rows T#11 to T#20 (R76). -/
def opcodeRows8to9 : List OpcodeDescriptor :=
  [⟨"LD_VX_VY", 0xF00F, 0x8000, [argX, argY], fun w => .ldVxVy (fieldX w) (fieldY w)⟩,
   ⟨"OR_VX_VY", 0xF00F, 0x8001, [argX, argY], fun w => .orVxVy (fieldX w) (fieldY w)⟩,
   ⟨"AND_VX_VY", 0xF00F, 0x8002, [argX, argY], fun w => .andVxVy (fieldX w) (fieldY w)⟩,
   ⟨"XOR_VX_VY", 0xF00F, 0x8003, [argX, argY], fun w => .xorVxVy (fieldX w) (fieldY w)⟩,
   ⟨"ADD_VX_VY", 0xF00F, 0x8004, [argX, argY], fun w => .addVxVy (fieldX w) (fieldY w)⟩,
   ⟨"SUB_VX_VY", 0xF00F, 0x8005, [argX, argY], fun w => .subVxVy (fieldX w) (fieldY w)⟩,
   ⟨"SHR_VX", 0xF00F, 0x8006, [argX, argY], fun w => .shrVx (fieldX w) (fieldY w)⟩,
   ⟨"SUBN_VX_VY", 0xF00F, 0x8007, [argX, argY], fun w => .subnVxVy (fieldX w) (fieldY w)⟩,
   ⟨"SHL_VX", 0xF00F, 0x800E, [argX, argY], fun w => .shlVx (fieldX w) (fieldY w)⟩,
   ⟨"SNE_VX_VY", 0xF00F, 0x9000, [argX, argY], fun w => .sneVxVy (fieldX w) (fieldY w)⟩]

/-- The rows T#21 to T#26 (R76). -/
def opcodeRowsAtoE : List OpcodeDescriptor :=
  [⟨"LD_I_NNN", 0xF000, 0xA000, [argNNN], fun w => .ldINnn (fieldNNN w)⟩,
   ⟨"JP_V0", 0xF000, 0xB000, [argNNN], fun w => .jpV0 (fieldNNN w)⟩,
   ⟨"RND", 0xF000, 0xC000, [argX, argNN], fun w => .rnd (fieldX w) (fieldNN w)⟩,
   ⟨"DRW", 0xF000, 0xD000, [argX, argY, argN], fun w => .drw (fieldX w) (fieldY w) (fieldN w)⟩,
   ⟨"SKP", 0xF0FF, 0xE09E, [argX], fun w => .skp (fieldX w)⟩,
   ⟨"SKNP", 0xF0FF, 0xE0A1, [argX], fun w => .sknp (fieldX w)⟩]

/-- The rows T#27 to T#35 (R76). -/
def opcodeRowsF : List OpcodeDescriptor :=
  [⟨"LD_VX_DT", 0xF0FF, 0xF007, [argX], fun w => .ldVxDt (fieldX w)⟩,
   ⟨"LD_VX_K", 0xF0FF, 0xF00A, [argX], fun w => .ldVxK (fieldX w)⟩,
   ⟨"LD_DT_VX", 0xF0FF, 0xF015, [argX], fun w => .ldDtVx (fieldX w)⟩,
   ⟨"LD_ST_VX", 0xF0FF, 0xF018, [argX], fun w => .ldStVx (fieldX w)⟩,
   ⟨"ADD_I_VX", 0xF0FF, 0xF01E, [argX], fun w => .addIVx (fieldX w)⟩,
   ⟨"LD_F_VX", 0xF0FF, 0xF029, [argX], fun w => .ldFVx (fieldX w)⟩,
   ⟨"LD_B_VX", 0xF0FF, 0xF033, [argX], fun w => .ldBVx (fieldX w)⟩,
   ⟨"LD_MEM_VX", 0xF0FF, 0xF055, [argX], fun w => .ldMemVx (fieldX w)⟩,
   ⟨"LD_VX_MEM", 0xF0FF, 0xF065, [argX], fun w => .ldVxMem (fieldX w)⟩]

/-- The opcode table in its fixed order (R76): CLS and RET stand before SYS (R77). -/
def opcodeTable : List OpcodeDescriptor := opcodeRows0to7 ++ opcodeRows8to9 ++ opcodeRowsAtoE ++ opcodeRowsF

/-- `decode(w)` (R73): the first descriptor that matches; where none does, UNKNOWN with the raw word (R78). It reads no state. -/
def decode (w : Word) : Instr :=
  match opcodeTable.find? (·.matchesWord w) with
  | some d => d.make w
  | none => .unknown w

/-- `DecodedInstruction` (00_scope.md R12): `mnemonic`, raw `opcode`, ordered integer `args`. -/
structure DecodedInstruction where
  mnemonic : String
  opcode : Word
  args : List Nat
  deriving DecidableEq, Repr

/-- The DecodedInstruction that R73 returns. -/
def decodeRecord (w : Word) : DecodedInstruction := ⟨(decode w).mnemonic, w, (decode w).args⟩

/-- The word whose high byte is `hi` and whose low byte is `lo`: `hi * 256 + lo` (20_memory.md R52). -/
def wordOfBytes (hi lo : Byte) : Word := BitVec.ofNat 16 (hi.toNat * 256 + lo.toNat)

/-- The high and the low byte of a word (R52). -/
def hiByte (w : Word) : Byte := w.extractLsb' 8 8
def loByte (w : Word) : Byte := w.extractLsb' 0 8

/-- The two bytes of a word as memory holds them, first the high one (R70). -/
def bytesOfWord (w : Word) : List Byte := [hiByte w, loByte w]

/-- Why bytes are not read as an instruction: only for want of two bytes, since every word decodes (R73). -/
inductive DecodeError where
  | truncated
  deriving DecidableEq, Repr

/-- Reads one instruction from bytes, high byte first (R70), and gives the rest. -/
def decodeBytes : List Byte → Except DecodeError (Instr × List Byte)
  | hi :: lo :: rest => .ok (decode (wordOfBytes hi lo), rest)
  | _ => .error .truncated

/-- The word of a table row's `nbits` low bits; the bits above are 0. -/
def tableWord (nbits w : Nat) : Word := BitVec.ofNat 16 (w % 2 ^ nbits)

/-- The instruction the decoder reads from the instruction whose bits are `w` as the opcode table numbers them. Every instruction is
one 16-bit word (R70), so a longer one has no reading. -/
def decodeTableWord (nbits w : Nat) : Option Instr :=
  if nbits ≤ 16 then
    match decodeBytes (bytesOfWord (tableWord nbits w)) with
    | .ok (i, _) => some i
    | .error _ => none
  else none

/-! The encoder, from the formats of R71. -/

/-- A field put at its place in the word, its lowest bit at bit `lo`. -/
def place {k : Nat} (f : BitVec k) (lo : Nat) : Word := f.setWidth 16 <<< lo

/-- Format `A`: `op` in bits 15:12, `nnn` in 11:0. -/
def encodeA (op : BitVec 4) (nnn : BitVec 12) : Word := place op 12 ||| place nnn 0
/-- Format `XI`: `op` in bits 15:12, `x` in 11:8, `nn` in 7:0. -/
def encodeXI (op : BitVec 4) (x : RegIdx) (nn : Byte) : Word := place op 12 ||| place x 8 ||| place nn 0
/-- Formats `XY` and `XYN`: `op` in bits 15:12, `x` in 11:8, `y` in 7:4, the sub-opcode or `n` in 3:0. -/
def encodeXY (op : BitVec 4) (x y : RegIdx) (n : BitVec 4) : Word := place op 12 ||| place x 8 ||| place y 4 ||| place n 0
/-- Format `X`: `op` in bits 15:12, `x` in 11:8, an 8-bit sub-opcode in 7:0. -/
def encodeX (op : BitVec 4) (x : RegIdx) (sub : Byte) : Word := place op 12 ||| place x 8 ||| place sub 0

/-- The word of an instruction (R71, R76). -/
def encode : Instr → Word
  | .cls => 0x00E0
  | .ret => 0x00EE
  | .sys nnn => encodeA 0x0 nnn
  | .jp nnn => encodeA 0x1 nnn
  | .call nnn => encodeA 0x2 nnn
  | .seVxNn x nn => encodeXI 0x3 x nn
  | .sneVxNn x nn => encodeXI 0x4 x nn
  | .seVxVy x y => encodeXY 0x5 x y 0x0
  | .ldVxNn x nn => encodeXI 0x6 x nn
  | .addVxNn x nn => encodeXI 0x7 x nn
  | .ldVxVy x y => encodeXY 0x8 x y 0x0
  | .orVxVy x y => encodeXY 0x8 x y 0x1
  | .andVxVy x y => encodeXY 0x8 x y 0x2
  | .xorVxVy x y => encodeXY 0x8 x y 0x3
  | .addVxVy x y => encodeXY 0x8 x y 0x4
  | .subVxVy x y => encodeXY 0x8 x y 0x5
  | .shrVx x y => encodeXY 0x8 x y 0x6
  | .subnVxVy x y => encodeXY 0x8 x y 0x7
  | .shlVx x y => encodeXY 0x8 x y 0xE
  | .sneVxVy x y => encodeXY 0x9 x y 0x0
  | .ldINnn nnn => encodeA 0xA nnn
  | .jpV0 nnn => encodeA 0xB nnn
  | .rnd x nn => encodeXI 0xC x nn
  | .drw x y n => encodeXY 0xD x y n
  | .skp x => encodeX 0xE x 0x9E
  | .sknp x => encodeX 0xE x 0xA1
  | .ldVxDt x => encodeX 0xF x 0x07
  | .ldVxK x => encodeX 0xF x 0x0A
  | .ldDtVx x => encodeX 0xF x 0x15
  | .ldStVx x => encodeX 0xF x 0x18
  | .addIVx x => encodeX 0xF x 0x1E
  | .ldFVx x => encodeX 0xF x 0x29
  | .ldBVx x => encodeX 0xF x 0x33
  | .ldMemVx x => encodeX 0xF x 0x55
  | .ldVxMem x => encodeX 0xF x 0x65
  | .unknown w => w

end Sys2Proof
end

