-- ==== Sys2Proof/Machine/Inputs.lean ====
section
/-! DEFINITION. What reaches the machine from its drivers and its host: the events of 60_exceptions.md R213, and what comes after the
events that State lists. -/

namespace Sys2Proof.Machine

/-- What the loader hands over at a reset (20_memory.md R55): the 80 bytes of `FONT` and the bytes of `ROM`. -/
structure ResetImage where
  font : Vector Byte 80
  rom : List Byte
  deriving DecidableEq, Repr

/-- The events of 60_exceptions.md R213, each atomic (00_scope.md R11). -/
inductive Event where
  /-- The host resets the machine; loading is part of it. -/
  | reset (image : ResetImage)
  /-- The host sets `RUN`. -/
  | start
  /-- The host clears `RUN`. -/
  | stop
  /-- One instruction cycle. -/
  | step
  /-- The delay-timer driver ticks. -/
  | dtTick
  /-- The sound-timer driver ticks. -/
  | stTick
  /-- Key `k` goes down. -/
  | keyDown (k : Key)
  /-- Key `k` goes up. -/
  | keyUp (k : Key)
  deriving DecidableEq, Repr, Inhabited

/-- What comes when the events that State lists are used up (60_exceptions.md R214; log 1). -/
inductive EventTail where
  /-- `step` events for ever. -/
  | steps
  /-- Any events, in an order nothing fixes: the `n`-th is the free value `Config.freeEvent n`, and `drawn` of them have come. -/
  | free (drawn : Nat)
  deriving DecidableEq, Repr

end Sys2Proof.Machine
end

