-- ==== Sys2Proof/Config.lean ====
section
/-! DEFINITION. What is fixed for the machine (00_scope.md R6), the parameters the spec leaves open (R7), and the free values:
the random port's bytes and the order of events. -/

namespace Sys2Proof.Config

/-- The memory size in bytes (R6, 20_memory.md R50). -/
def memSize : Nat := 4096

/-- The program entry point, `PC` at reset (R6, 10_state.md R43). -/
def entry : Word := 0x200

/-- The address the loader places the first byte of `ROM` at (20_memory.md R55). -/
def romBase : Nat := 0x200

/-- The longest `ROM` the model takes (R55): `4096 - 0x200` bytes. -/
def romMax : Nat := 3584

/-- The framebuffer's width and height in pixels (R6, 10_state.md R34). -/
def fbWidth : Nat := 64
def fbHeight : Nat := 32

/-- PRESUMED (log 3). The default of the parameter `FONT`: the glyph table 93_implementation_defined.md lists as G5, from general
knowledge. Glyph `g` is bytes `5 * g` to `5 * g + 4`. -/
def defaultFont : Vector Byte 80 :=
  #v[0xF0, 0x90, 0x90, 0x90, 0xF0, 0x20, 0x60, 0x20, 0x20, 0x70,
     0xF0, 0x10, 0xF0, 0x80, 0xF0, 0xF0, 0x10, 0xF0, 0x10, 0xF0,
     0x90, 0x90, 0xF0, 0x10, 0x10, 0xF0, 0x80, 0xF0, 0x10, 0xF0,
     0xF0, 0x80, 0xF0, 0x90, 0xF0, 0xF0, 0x10, 0x20, 0x40, 0x40,
     0xF0, 0x90, 0xF0, 0x90, 0xF0, 0xF0, 0x90, 0xF0, 0x10, 0xF0,
     0xF0, 0x90, 0xF0, 0x90, 0x90, 0xE0, 0x90, 0xE0, 0x90, 0xE0,
     0xF0, 0x80, 0x80, 0x80, 0xF0, 0xE0, 0x90, 0x90, 0x90, 0xE0,
     0xF0, 0x80, 0xF0, 0x80, 0xF0, 0xF0, 0x80, 0xF0, 0x80, 0x80]

/-- The free value of the random port (43_index_random.md R142, U8): the byte the `n`-th free draw supplies. It has no body, so a
claim about it holds whatever byte the port supplies (log 2). -/
opaque freeByte : Nat → Byte

/-- The free order of events (60_exceptions.md R214, U10): an endless sequence of which nothing is known, not even that it is fair. It
has no body, so a claim about it holds for every order (log 1). -/
opaque freeEvent : Nat → Machine.Event

/-- The three periods of R7 (`T_CYCLE`, `T_DT`, `T_ST`). No rule of the model reads them (70_reset_and_hazards.md R265; log 6). -/
opaque tCycle : Nat
opaque tDt : Nat
opaque tSt : Nat

end Sys2Proof.Config
end

