-- ==== Sys2Proof/Machine/State.lean ====
section
/-! DEFINITION. Every piece of state the spec gives the machine (10_state.md), as plain data, and the state after reset (R43). The
last four fields are the model's own: the schedule of events and the random port's supply. -/

namespace Sys2Proof.Machine

/-- Memory: (address, byte) pairs, addresses rising, none equal to what an unlisted address reads as (`Memory.wf`, Ops.lean). -/
abbrev Memory := List Host.Cell

/-- The general registers `V[0]` to `V[15]` (R20). -/
abbrev RegFile := Vector Byte 16

/-- The framebuffer, `FB[y][x]`: 32 rows of 64 pixels (R34). -/
abbrev FrameBuffer := Vector (Vector Bool 64) 32

/-- `FAULT.cause` (R37, 60_exceptions.md R201). The codes 4 to 7 are never written, so no constructor stands for them. -/
inductive FaultCause where
  /-- 0 `NONE`: the reset value. -/
  | none
  /-- 1 `OUT_OF_RANGE`: an address outside memory (fetch, `Dxyn`, `Fx33`, `Fx55`, `Fx65`). -/
  | outOfRange
  /-- 2 `STACK_OVERFLOW`: CALL at `SP = 15`. -/
  | stackOverflow
  /-- 3 `STACK_UNDERFLOW`: RET at `SP = −1`. -/
  | stackUnderflow
  deriving DecidableEq, Repr

/-- The 3-bit code of a cause (R37). -/
def FaultCause.code : FaultCause → BitVec 3
  | .none => 0
  | .outOfRange => 1
  | .stackOverflow => 2
  | .stackUnderflow => 3

/-- The `FAULT` register: `cause` and `addr` (R37). -/
structure FaultReg where
  cause : FaultCause
  addr : Word
  deriving DecidableEq, Repr

/-- The 19 bits of `FAULT`, `cause ++ addr` (R37 gives the fields' widths; that `cause` is the high field is log 8). -/
def FaultReg.bits (f : FaultReg) : BitVec 19 := f.cause.code ++ f.addr

/-- Why the machine would stop: never. The three conditions the spec calls faults are recorded in the `FAULT` register and the machine
has a next state (60_exceptions.md R203, R206), and no rule of the spec stops it otherwise, so this type has no constructor. -/
inductive Fault where
  deriving DecidableEq, Repr

/-- Why a step has no meaning in the model. -/
inductive Refusal where
  /-- Raised by `exec` for an instruction with no meaning yet (none is left). Safe. -/
  | notModelled (mnemonic : String)
  /-- Raised by the `reset` event for a `ROM` longer than 3584 bytes, which is outside the model (20_memory.md R55, U17; log 5). Safe. -/
  | romTooLong
  deriving DecidableEq, Repr

/-- The state. -/
structure State where
  /-- `V[0]` to `V[15]` (R20); `VF` is `V[15]` (R22). -/
  v : RegFile
  /-- `PC` (R24). -/
  pc : Word
  /-- `I` (R27). -/
  index : Word
  /-- `STACK[0]` to `STACK[15]` (R29). -/
  stack : Vector Word 16
  /-- `SP`, 5-bit two's complement, −1 when empty (R30). -/
  sp : BitVec 5
  /-- `DT` (R31). -/
  dt : Byte
  /-- `ST` (R32). -/
  st : Byte
  /-- `MEM` (R33). -/
  mem : Memory
  /-- `FB` (R34). -/
  fb : FrameBuffer
  /-- `KEYS` (R35). -/
  keys : Vector Bool 16
  /-- `KLATCH` (R36). -/
  klatch : Option Key
  /-- `FAULT` (R37). -/
  faultReg : FaultReg
  /-- `RUN` (R38). -/
  run : Bool
  /-- The model's own: the events still to come, the next one first (60_exceptions.md R214; log 1). -/
  events : List Event
  /-- The model's own: what comes after them (log 1). -/
  eventTail : EventTail
  /-- The model's own: bytes the random port has ready, the next one first (43_index_random.md R142; log 2). -/
  randQueue : List Byte
  /-- The model's own: how many free bytes have been drawn (log 2). -/
  randDraws : Nat
  deriving DecidableEq, Repr

/-- The state after `reset` (R43) with the default `FONT` and an empty `ROM` (logs 3, 4). -/
def State.reset : State where
  v := Vector.replicate 16 0
  pc := Config.entry
  index := 0
  stack := Vector.replicate 16 0
  sp := 0b11111
  dt := 0
  st := 0
  mem := []
  fb := Vector.replicate 32 (Vector.replicate 64 false)
  keys := Vector.replicate 16 false
  klatch := none
  faultReg := ⟨.none, 0⟩
  run := false
  events := []
  eventTail := .steps
  randQueue := []
  randDraws := 0

end Sys2Proof.Machine
end

