-- ==== Sys2Proof/Machine/Ops.lean ====
section
/-! DEFINITION. The operations shared by the meanings: registers, the stack, memory (20_memory.md), how an instruction ends, and
taking a fault (60_exceptions.md R203), once. -/

namespace Sys2Proof.Machine

/-- What one step answers. -/
abbrev Result := Host.Outcome State Fault Refusal

/-! ## General registers (10_state.md R20 to R22) -/

/-- The register that doubles as the flag, `VF = V[15]` (R22). -/
def vf : RegIdx := 15

/-- `V[x]` (R20). -/
def State.reg (s : State) (x : RegIdx) : Byte := s.v[x.toNat]'(regIdx_lt x)

/-- `V[x] <- b` (R20). -/
def State.setReg (s : State) (x : RegIdx) (b : Byte) : State := { s with v := s.v.set x.toNat b (regIdx_lt x) }

/-- Writes `VF` and then `V[x]`: with `x = 15` the result is what `V[15]` holds (10_state.md R23, 42_load_alu.md R131). The flag and
the result are computed from the operands before either write. -/
def State.setFlagThenReg (s : State) (flag : Byte) (x : RegIdx) (result : Byte) : State := (s.setReg vf flag).setReg x result

/-! ## Writing the other state elements -/

/-- The register file as a whole (47_memory_transfer.md R182). -/
def State.setRegs (s : State) (v : RegFile) : State := { s with v := v }

/-- `I <- w`. -/
def State.setIndex (s : State) (w : Word) : State := { s with index := w }

/-- `DT <- b`. -/
def State.setDt (s : State) (b : Byte) : State := { s with dt := b }

/-- `ST <- b`. -/
def State.setSt (s : State) (b : Byte) : State := { s with st := b }

/-- `MEM` after a write. -/
def State.setMem (s : State) (m : Memory) : State := { s with mem := m }

/-- `FB` after a write. -/
def State.setFb (s : State) (fb : FrameBuffer) : State := { s with fb := fb }

/-- `FAULT <- f`. -/
def State.setFault (s : State) (f : FaultReg) : State := { s with faultReg := f }

/-- The schedule: the events listed, and what comes after them (log 1). -/
def State.setSchedule (s : State) (events : List Event) (tail : EventTail) : State :=
  { s with events := events, eventTail := tail }

/-! ## How an instruction ends (40_control_transfer.md R100) -/

/-- The default: `PC <- PC + 2`. -/
def State.advance (s : State) : State := { s with pc := s.pc + 2 }

/-- A skip whose condition holds: `PC <- PC + 4` (41_conditional_skip.md). -/
def State.skipNext (s : State) : State := { s with pc := s.pc + 4 }

/-- `pc <- target`. -/
def State.jump (s : State) (target : Word) : State := { s with pc := target }

/-- `if cond then pc <- PC + 4 else pc <- PC + 2` (R110). -/
def State.skipIf (s : State) (cond : Bool) : State := if cond then s.skipNext else s.advance

/-! ## Taking a fault (60_exceptions.md R203) -/

/-- `raise F(info)`: `FAULT` is written and every other state element keeps its value, `PC` and `RUN` included. There is no handler
and no return: `FAULT` is cleared by the `reset` event alone (R205), which is `State.afterReset` in Events.lean. -/
def raise (cause : FaultCause) (addr : Word) (s : State) : Result := .next (s.setFault ⟨cause, addr⟩)

/-- `raise OutOfRange(a)`: `FAULT.addr` is the address, saturated (R201). -/
def raiseOutOfRange (a : Nat) (s : State) : Result := raise .outOfRange (sat16 a) s

/-! ## The call stack (10_state.md R29, R30) -/

/-- `SP` when the stack is empty: −1. -/
def spEmpty : BitVec 5 := 0b11111

/-- `SP` when the stack is full: 15. -/
def spFull : BitVec 5 := 15

/-- The index of the entry a stack pointer names: its low four bits, so `SP` itself for 0 to 15 (the other values: log 9). -/
def stackIdx (sp : BitVec 5) : RegIdx := sp.setWidth 4

/-- `STACK[sp]`. -/
def State.stackAt (s : State) (sp : BitVec 5) : Word := s.stack[(stackIdx sp).toNat]'(regIdx_lt _)

/-- `SP <- SP + 1; STACK[SP] <- ret` (40_control_transfer.md R102). -/
def State.push (s : State) (ret : Word) : State :=
  let sp := s.sp + 1
  { s with sp := sp, stack := s.stack.set (stackIdx sp).toNat ret (regIdx_lt _) }

/-- `SP <- SP − 1`; the entry keeps its value (R29, R103). -/
def State.pop (s : State) : State := { s with sp := s.sp - 1 }

/-! ## Memory (20_memory.md) -/

/-- What an address that memory does not list reads as: the contents at reset (R55, 10_state.md R43), the default `FONT` at 0x000 to
0x04F (log 3) and 0x00 above. -/
def Memory.unlisted (a : Nat) : Byte := if h : a < 80 then Config.defaultFont[a] else 0

/-- The byte at an address. -/
def Memory.get : Memory → Nat → Byte
  | [], a => Memory.unlisted a
  | (k, b) :: rest, a => if k = a then b else Memory.get rest a

/-- Puts a cell before a list of cells, unless it says what an unlisted address reads as. -/
def Memory.consCell (a : Nat) (b : Byte) (rest : Memory) : Memory := if b = Memory.unlisted a then rest else (a, b) :: rest

/-- `MEM[a] <- b`, keeping the canonical form. -/
def Memory.set : Memory → Nat → Byte → Memory
  | [], a, b => Memory.consCell a b []
  | (k, c) :: rest, a, b =>
    if a < k then Memory.consCell a b ((k, c) :: rest)
    else if a = k then Memory.consCell a b rest
    else (k, c) :: Memory.set rest a b

/-- The canonical form: addresses strictly rising and below 4096, no cell equal to what its address reads as unlisted. -/
abbrev Memory.wf (m : Memory) : Prop :=
  m.Pairwise (·.1 < ·.1) ∧ ∀ c ∈ m, c.1 < Config.memSize ∧ c.2 ≠ Memory.unlisted c.1

/-- `n` bytes at ascending addresses. -/
def Memory.readBytes (m : Memory) (base n : Nat) : List Byte := (List.range n).map fun k => m.get (base + k)

/-- Bytes written at ascending addresses. -/
def Memory.writeBytes (m : Memory) (base : Nat) : List Byte → Memory
  | [] => m
  | b :: rest => Memory.writeBytes (m.set base b) (base + 1) rest

/-- The lowest address outside memory of an access to `n` bytes at `base`, where there is one: `max(base, 4096)` (60_exceptions.md
R201). An access to no byte has none (44_display.md R153). -/
def firstOutside (base n : Nat) : Option Nat :=
  if n = 0 ∨ base + n ≤ Config.memSize then none else some (max base Config.memSize)

/-- `n` bytes read at ascending addresses, or the address to raise `OutOfRange` with; the check stands before the first read. -/
def memReadN (m : Memory) (base n : Nat) : Except Nat (List Byte) :=
  match firstOutside base n with
  | some a => .error a
  | none => .ok (m.readBytes base n)

/-- Bytes written at ascending addresses, or the address to raise `OutOfRange` with; the check stands before the first write, so
that a fault leaves memory as it was (R203). -/
def memWriteN (m : Memory) (base : Nat) (bytes : List Byte) : Except Nat Memory :=
  match firstOutside base bytes.length with
  | some a => .error a
  | none => .ok (m.writeBytes base bytes)

/-- `MemRead(addr, 1)` (R51). -/
def memRead1 (m : Memory) (a : Nat) : Except Nat Byte := if a < Config.memSize then .ok (m.get a) else .error a

/-- `MemRead(addr, 2)`: big-endian, the high byte at `addr` (R52). -/
def memRead2 (m : Memory) (a : Nat) : Except Nat Word :=
  match memRead1 m a with
  | .error e => .error e
  | .ok hi =>
    match memRead1 m (a + 1) with
    | .error e => .error e
    | .ok lo => .ok (wordOfBytes hi lo)

/-- `MemWrite(addr, 1, v)` (R53). -/
def memWrite1 (m : Memory) (a : Nat) (b : Byte) : Except Nat Memory :=
  if a < Config.memSize then .ok (m.set a b) else .error a

/-- `MemWrite(addr, 2, v)`, the source's `setWord`: the high byte at `addr` (R53). No instruction uses it. -/
def memWrite2 (m : Memory) (a : Nat) (w : Word) : Except Nat Memory := memWriteN m a (bytesOfWord w)

/-- `w <- MemRead(PC, 2)` (R56). -/
def State.fetch (s : State) : Except Nat Word := memRead2 s.mem s.pc.toNat

/-! ## The random port (43_index_random.md R142) -/

/-- `Rand8()`: the byte the port has ready, else a free value, a fresh one at each draw (log 2). -/
def State.rand8 (s : State) : Byte :=
  match s.randQueue with
  | r :: _ => r
  | [] => Config.freeByte s.randDraws

/-- The port after one draw. -/
def State.afterDraw (s : State) : State :=
  match s.randQueue with
  | _ :: rest => { s with randQueue := rest }
  | [] => { s with randDraws := s.randDraws + 1 }

/-! ## The sound output (60_exceptions.md R217) -/

/-- `SOUND = 1` if `ST ≠ 0`, else 0. -/
def State.sound (s : State) : Bool := s.st ≠ 0

end Sys2Proof.Machine
end

