-- ==== Sys2Proof/Machine/Operands.lean ====
section
/-! DEFINITION. The operand forms of 30_encoding.md R75: a register, an unsigned immediate, an address; the registers and the address
of a block transfer; the decimal digits and the font address of a register value. -/

namespace Sys2Proof.Machine

/-- `zext_16(nnn)`: an address operand gains four zero bits (R75). -/
def addrOperand (nnn : BitVec 12) : Word := nnn.setWidth 16

/-- `zext_16` of a byte (40_control_transfer.md R104, 43_index_random.md R141). -/
def zext16 (b : Byte) : Word := b.setWidth 16

/-- `zext_8(k)` of a key code (45_keypad.md R165). -/
def keyByte (k : Key) : Byte := k.setWidth 8

/-- The effective address of every data access: `I` as a plain number, to which offsets are added without wrap
(47_memory_transfer.md). -/
def State.base (s : State) : Nat := s.index.toNat

/-- `V[0]` to `V[x]`, in order (47_memory_transfer.md R181). -/
def State.regsUpTo (s : State) (x : RegIdx) : List Byte := s.v.toList.take (x.toNat + 1)

/-- Writes bytes to the registers from index `i` on, ascending (R182). -/
def setRegsFrom (v : RegFile) (i : Nat) : List Byte → RegFile
  | [] => v
  | b :: rest => setRegsFrom (v.setIfInBounds i b) (i + 1) rest

/-- `I <- sat16(base + x)` after a block transfer: by `x`, not by `x + 1` (R181, R182, 90_conflicts.md C1). -/
def State.moveIndex (s : State) (x : RegIdx) : State := s.setIndex (sat16 (s.base + x.toNat))

/-- The hundreds, tens and ones digit of a byte (R180). -/
def bcdDigits (a : Byte) : List Byte :=
  [BitVec.ofNat 8 (a.toNat / 100), BitVec.ofNat 8 (a.toNat / 10 % 10), BitVec.ofNat 8 (a.toNat % 10)]

/-- `zext_16(v) * 5`: the address of glyph `v`, the whole byte and not its low nibble (43_index_random.md R143). -/
def glyphAddr (b : Byte) : Word := zext16 b * 5

end Sys2Proof.Machine
end

