-- ==== Sys2Proof/Machine/Flags.lean ====
section
/-! DEFINITION. The flag computations of 10_state.md R23. A flag is the full byte 0x00 or 0x01 (R22). -/

namespace Sys2Proof.Machine

/-- The byte a flag is written as (R22). -/
def flagByte (b : Bool) : Byte := if b then 1 else 0

/-- Carry out of `a + b`: the 9-bit sum exceeds 255 (42_load_alu.md R126). There is no carry in. -/
def carryFlag (a b : Byte) : Byte := flagByte (decide (a.toNat + b.toNat > 255))

/-- The subtract flag: the minuend is strictly greater than the subtrahend, so 0 for equal operands (R127, R129, 90_conflicts.md C4). -/
def greaterFlag (minuend subtrahend : Byte) : Byte := flagByte (decide (minuend.toNat > subtrahend.toNat))

/-- The bit a right shift by one shifts out: `a[0]` (R128). -/
def shrFlag (a : Byte) : Byte := flagByte (a.getLsbD 0)

/-- The bit a left shift by one shifts out: `a[7]` (R130). -/
def shlFlag (a : Byte) : Byte := flagByte (a.getLsbD 7)

/-- The collision flag of a sprite (44_display.md R153). -/
def collisionFlag (hit : Bool) : Byte := flagByte hit

end Sys2Proof.Machine
end

