-- ==== Sys2Proof/Machine/Alu.lean ====
section
/-! DEFINITION. Register load and 8-bit arithmetic (42_load_alu.md R120 to R131). Every operand is read before any write (R131). -/

namespace Sys2Proof.Machine

/-- An instruction that only writes `V[x]` and advances. -/
def writeReg (x : RegIdx) (b : Byte) (s : State) : Result := .next (s.setReg x b).advance

/-- An instruction that writes `VF`, then `V[x]`, and advances. -/
def writeFlagAndReg (flag : Byte) (x : RegIdx) (result : Byte) (s : State) : Result :=
  .next (s.setFlagThenReg flag x result).advance

/-- `6xnn` (R120): `V[x] <- nn`. -/
def execLdVxNn (x : RegIdx) (nn : Byte) (s : State) : Result := writeReg x nn s

/-- `7xnn` (R121): `V[x] <- (V[x] + nn) mod 256`; no flag. -/
def execAddVxNn (x : RegIdx) (nn : Byte) (s : State) : Result := writeReg x (s.reg x + nn) s

/-- `8xy0` (R122): `V[x] <- V[y]`. -/
def execLdVxVy (x y : RegIdx) (s : State) : Result := writeReg x (s.reg y) s

/-- `8xy1` (R123): `V[x] <- V[x] | V[y]`; no flag. -/
def execOrVxVy (x y : RegIdx) (s : State) : Result := writeReg x (s.reg x ||| s.reg y) s

/-- `8xy2` (R124): `V[x] <- V[x] & V[y]`; no flag. -/
def execAndVxVy (x y : RegIdx) (s : State) : Result := writeReg x (s.reg x &&& s.reg y) s

/-- `8xy3` (R125): `V[x] <- V[x] ^ V[y]`; no flag. -/
def execXorVxVy (x y : RegIdx) (s : State) : Result := writeReg x (s.reg x ^^^ s.reg y) s

/-- `8xy4` (R126): `VF <-` carry out, `V[x] <- (V[x] + V[y]) mod 256`. -/
def execAddVxVy (x y : RegIdx) (s : State) : Result :=
  writeFlagAndReg (carryFlag (s.reg x) (s.reg y)) x (s.reg x + s.reg y) s

/-- `8xy5` (R127): `VF <- 1 if V[x] > V[y]`, `V[x] <- (V[x] − V[y]) mod 256`. -/
def execSubVxVy (x y : RegIdx) (s : State) : Result :=
  writeFlagAndReg (greaterFlag (s.reg x) (s.reg y)) x (s.reg x - s.reg y) s

/-- `8xy6` (R128): `VF <- V[x][0]`, `V[x] <- V[x] >> 1`; the operand `y` is not used. -/
def execShrVx (x _y : RegIdx) (s : State) : Result := writeFlagAndReg (shrFlag (s.reg x)) x (s.reg x >>> 1) s

/-- `8xy7` (R129): `VF <- 1 if V[y] > V[x]`, `V[x] <- (V[y] − V[x]) mod 256`. -/
def execSubnVxVy (x y : RegIdx) (s : State) : Result :=
  writeFlagAndReg (greaterFlag (s.reg y) (s.reg x)) x (s.reg y - s.reg x) s

/-- `8xyE` (R130): `VF <- V[x][7]`, `V[x] <- (V[x] << 1) mod 256`; the operand `y` is not used. -/
def execShlVx (x _y : RegIdx) (s : State) : Result := writeFlagAndReg (shlFlag (s.reg x)) x (s.reg x <<< 1) s

end Sys2Proof.Machine
end

