-- ==== Sys2Proof/Machine/Control.lean ====
section
/-! DEFINITION. Control transfer: JP, CALL, RET, JP V0 (40_control_transfer.md R101 to R104). -/

namespace Sys2Proof.Machine

/-- `1nnn` (R101): `pc <- zext_16(nnn)`. -/
def execJp (nnn : BitVec 12) (s : State) : Result := .next (s.jump (addrOperand nnn))

/-- `2nnn` (R102): pushes `PC + 2` and jumps; a full stack raises `StackOverflow` and nothing is pushed. -/
def execCall (nnn : BitVec 12) (s : State) : Result :=
  if s.sp = spFull then raise .stackOverflow 0 s
  else .next ((s.push (s.pc + 2)).jump (addrOperand nnn))

/-- `00EE` (R103): jumps to the popped entry; an empty stack raises `StackUnderflow`. -/
def execRet (s : State) : Result :=
  if s.sp = spEmpty then raise .stackUnderflow 0 s
  else .next (s.pop.jump (s.stackAt s.sp))

/-- `Bnnn` (R104): `pc <- zext_16(nnn) + zext_16(V[0])`, not masked to 12 bits. -/
def execJpV0 (nnn : BitVec 12) (s : State) : Result := .next (s.jump (addrOperand nnn + zext16 (s.reg 0)))

end Sys2Proof.Machine
end

