-- ==== Sys2Proof/Machine/Display.lean ====
section
/-! DEFINITION. The display: `DrawPixel`, `ClearDisplay`, CLS and DRW (44_display.md R150 to R153). -/

namespace Sys2Proof.Machine

/-- `FB[y][x]`; false off the screen. -/
def FrameBuffer.pixel (fb : FrameBuffer) (x y : Nat) : Bool :=
  if h : x < 64 ∧ y < 32 then (fb[y]'h.2)[x]'h.1 else false

/-- `DrawPixel(x, y, b)` (R150): the new framebuffer and the collision bit. Off-screen pixels are discarded, not wrapped. -/
def drawPixel (fb : FrameBuffer) (x y : Nat) (b : Bool) : FrameBuffer × Bool :=
  if h : x < 64 ∧ y < 32 then
    let old := (fb[y]'h.2)[x]'h.1
    (fb.set y ((fb[y]'h.2).set x (old ^^ b) h.1) h.2, old && b)
  else (fb, false)

/-- `ClearDisplay()` (R151). -/
def clearDisplay : FrameBuffer := Vector.replicate 32 (Vector.replicate 64 false)

/-- One row of a sprite over the columns of a list: column `c` is bit `7 − c`, the most significant bit first; the collision mark is
only ever set (R153). -/
def drawCols (bx y : Nat) (row : Byte) : List Nat → FrameBuffer × Bool → FrameBuffer × Bool
  | [], p => p
  | c :: cs, p =>
    let q := drawPixel p.1 (bx + c) y (row.getLsbD (7 - c))
    drawCols bx y row cs (q.1, p.2 || q.2)

/-- The columns of a sprite row, left to right. -/
def spriteCols : List Nat := [0, 1, 2, 3, 4, 5, 6, 7]

/-- The rows of a sprite, top to bottom. -/
def drawRows (bx y : Nat) : List Byte → FrameBuffer × Bool → FrameBuffer × Bool
  | [], p => p
  | row :: rows, p => drawRows bx (y + 1) rows (drawCols bx y row spriteCols p)

/-- The whole sprite, starting with no collision: the new framebuffer and whether any pixel collided. -/
def drawSprite (fb : FrameBuffer) (bx y : Nat) (rows : List Byte) : FrameBuffer × Bool := drawRows bx y rows (fb, false)

/-- `00E0` (R152): `ClearDisplay()`. -/
def execCls (s : State) : Result := .next (s.setFb clearDisplay).advance

/-- `Dxyn` (R153): the `n` bytes at `I` are read (or the fault raised) first, then `VF` and the pixels are written; the coordinates
are the register values before `VF` is cleared. -/
def execDrw (x y : RegIdx) (n : BitVec 4) (s : State) : Result :=
  match memReadN s.mem s.base n.toNat with
  | .error a => raiseOutOfRange a s
  | .ok rows =>
    let drawn := drawSprite s.fb (s.reg x).toNat (s.reg y).toNat rows
    .next (((s.setReg vf (collisionFlag drawn.2)).setFb drawn.1).advance)

end Sys2Proof.Machine
end

