-- ==== Sys2Proof/Machine/IndexRandom.lean ====
section
/-! DEFINITION. Index register, font address and random (43_index_random.md R140 to R143). -/

namespace Sys2Proof.Machine

/-- `I <- w`, then the default advance. -/
def writeIndex (w : Word) (s : State) : Result := .next (s.setIndex w).advance

/-- `Annn` (R140): `I <- zext_16(nnn)`. -/
def execLdINnn (nnn : BitVec 12) (s : State) : Result := writeIndex (addrOperand nnn) s

/-- `Fx1E` (R141): `I <- sat16(I + zext_16(V[x]))`; no flag. -/
def execAddIVx (x : RegIdx) (s : State) : Result := writeIndex (sat16 (s.base + (s.reg x).toNat)) s

/-- `Cxnn` (R142): `V[x] <- Rand8() & nn`. -/
def execRnd (x : RegIdx) (nn : Byte) (s : State) : Result := .next ((s.afterDraw.setReg x (s.rand8 &&& nn)).advance)

/-- `Fx29` (R143): `I <- zext_16(V[x]) * 5`. -/
def execLdFVx (x : RegIdx) (s : State) : Result := writeIndex (glyphAddr (s.reg x)) s

end Sys2Proof.Machine
end

