-- ==== Sys2Proof/Machine/Keypad.lean ====
section
/-! DEFINITION. The keypad: key events, `KeyPressed`, `KeyTake`, the key skips and the key wait (45_keypad.md R160 to R165). -/

namespace Sys2Proof.Machine

/-- `KeyPressed(k)` for an 8-bit `k` (R161): no such key above 15, and no masking. -/
def State.keyPressed (s : State) (k : Byte) : Bool := if h : k.toNat < 16 then s.keys[k.toNat] else false

/-- `KEYS[k] <- b`. -/
def State.setKey (s : State) (k : Key) (b : Bool) : State := { s with keys := s.keys.set k.toNat b (regIdx_lt k) }

/-- `key_down(k)` (R160): `KEYS[k] <- 1; KLATCH <- k`. -/
def State.keyDown (s : State) (k : Key) : State := { s.setKey k true with klatch := some k }

/-- `key_up(k)` (R160): `KEYS[k] <- 0`; the latch stays. -/
def State.keyUp (s : State) (k : Key) : State := s.setKey k false

/-- The state after `KeyTake()` (R162): the latch is cleared; what it returns is the latch before. -/
def State.keyTaken (s : State) : State := { s with klatch := none }

/-- `Ex9E` (R163): skip if the key named by `V[x]` is down. -/
def execSkp (x : RegIdx) (s : State) : Result := .next (s.skipIf (s.keyPressed (s.reg x)))

/-- `ExA1` (R164): skip if the key named by `V[x]` is not down. -/
def execSknp (x : RegIdx) (s : State) : Result := .next (s.skipIf (!s.keyPressed (s.reg x)))

/-- `Fx0A` (R165): with no key latched nothing changes and the instruction is issued again; otherwise the key is taken. -/
def execLdVxK (x : RegIdx) (s : State) : Result :=
  match s.klatch with
  | none => .next s
  | some k => .next ((s.keyTaken.setReg x (keyByte k)).advance)

end Sys2Proof.Machine
end

