-- ==== Sys2Proof/Machine/MemTransfer.lean ====
section
/-! DEFINITION. Memory transfer: BCD store, block store, block load (47_memory_transfer.md R180 to R182). -/

namespace Sys2Proof.Machine

/-- `Fx33` (R180): the three digits of `V[x]` at `I`, `I + 1`, `I + 2`; `I` is not changed. -/
def execLdBVx (x : RegIdx) (s : State) : Result :=
  match memWriteN s.mem s.base (bcdDigits (s.reg x)) with
  | .error a => raiseOutOfRange a s
  | .ok m => .next (s.setMem m).advance

/-- `Fx55` (R181): `V[0]` to `V[x]` at ascending addresses from `I`; then `I <- sat16(I + x)`. -/
def execLdMemVx (x : RegIdx) (s : State) : Result :=
  match memWriteN s.mem s.base (s.regsUpTo x) with
  | .error a => raiseOutOfRange a s
  | .ok m => .next ((s.setMem m).moveIndex x).advance

/-- `Fx65` (R182): `V[0]` to `V[x]` from ascending addresses from `I`; then `I <- sat16(I + x)`. -/
def execLdVxMem (x : RegIdx) (s : State) : Result :=
  match memReadN s.mem s.base (x.toNat + 1) with
  | .error a => raiseOutOfRange a s
  | .ok bytes => .next ((s.setRegs (setRegsFrom s.v 0 bytes)).moveIndex x).advance

end Sys2Proof.Machine
end

