-- ==== Sys2Proof/Machine/Skip.lean ====
section
/-! DEFINITION. The conditional skips on registers (41_conditional_skip.md R110 to R113). -/

namespace Sys2Proof.Machine

/-- `3xnn` (R110): skip if `V[x] == nn`. -/
def execSeVxNn (x : RegIdx) (nn : Byte) (s : State) : Result := .next (s.skipIf (s.reg x = nn))

/-- `4xnn` (R111): skip if `V[x] != nn`. -/
def execSneVxNn (x : RegIdx) (nn : Byte) (s : State) : Result := .next (s.skipIf (s.reg x ≠ nn))

/-- `5xy0` (R112): skip if `V[x] == V[y]`. -/
def execSeVxVy (x y : RegIdx) (s : State) : Result := .next (s.skipIf (s.reg x = s.reg y))

/-- `9xy0` (R113): skip if `V[x] != V[y]`. -/
def execSneVxVy (x y : RegIdx) (s : State) : Result := .next (s.skipIf (s.reg x ≠ s.reg y))

end Sys2Proof.Machine
end

