-- ==== Sys2Proof/Machine/System.lean ====
section
/-! DEFINITION. The system call slot and the unknown instruction, both no-ops (48_system_unknown.md R190, R191). -/

namespace Sys2Proof.Machine

/-- `0nnn` (R190): nothing, and the default advance. -/
def execSys (_nnn : BitVec 12) (s : State) : Result := .next s.advance

/-- UNKNOWN (R191): no state change, and the default advance; not a fault. -/
def execUnknown (_w : Word) (s : State) : Result := .next s.advance

end Sys2Proof.Machine
end

