-- ==== Sys2Proof/Machine/Timers.lean ====
section
/-! DEFINITION. The timers: the ticks (60_exceptions.md R215, R216) and the transfer instructions (46_timers.md R170 to R172). -/

namespace Sys2Proof.Machine

/-- A timer after one tick: one less, never below 0 (R215, R216). -/
def tickDown (t : Byte) : Byte := if t.toNat > 0 then t - 1 else t

/-- `Fx07` (R170): `V[x] <- DT`. -/
def execLdVxDt (x : RegIdx) (s : State) : Result := .next (s.setReg x s.dt).advance

/-- `Fx15` (R171): `DT <- V[x]`. -/
def execLdDtVx (x : RegIdx) (s : State) : Result := .next (s.setDt (s.reg x)).advance

/-- `Fx18` (R172): `ST <- V[x]`. -/
def execLdStVx (x : RegIdx) (s : State) : Result := .next (s.setSt (s.reg x)).advance

end Sys2Proof.Machine
end

