-- ==== Sys2Proof/Machine/Events.lean ====
section
/-! DEFINITION. The events (00_scope.md R11, 60_exceptions.md R213): the instruction cycle, the ticks, the key events, `start`, `stop`
and `reset`, which of them comes next, and an order of them given from outside. -/

namespace Sys2Proof.Machine

/-- The instruction cycle (40_control_transfer.md R100): fetch, decode, execute. A fetch outside memory raises `OutOfRange` and
nothing is decoded (60_exceptions.md R204). -/
def instrCycle (s : State) : Result :=
  match s.fetch with
  | .error a => raiseOutOfRange a s
  | .ok w => exec (decode w) s

/-- When `step` is enabled: `RUN = 1` and `FAULT.cause = NONE` (R100). -/
def State.stepEnabled (s : State) : Bool := s.run && decide (s.faultReg.cause = .none)

/-- The `step` event (R100): one instruction when enabled, otherwise no change. -/
def stepEvent (s : State) : Result := if s.stepEnabled then instrCycle s else .next s

/-- `dt_tick` (60_exceptions.md R215), enabled when `RUN = 1`. -/
def State.dtTick (s : State) : State := if s.run then s.setDt (tickDown s.dt) else s

/-- `st_tick` (R216), enabled when `RUN = 1`. -/
def State.stTick (s : State) : State := if s.run then s.setSt (tickDown s.st) else s

/-- `start` (R213): `RUN <- 1`; it does not clear a fault (R206). -/
def State.started (s : State) : State := { s with run := true }

/-- `stop` (R213, R221): `RUN <- 0`; all other state survives. -/
def State.stopped (s : State) : State := { s with run := false }

/-- The memory image of a reset (20_memory.md R55): `FONT` at 0, `ROM` at 0x200, 0x00 elsewhere. -/
def ResetImage.memory (image : ResetImage) : Memory :=
  (Memory.writeBytes [] 0 image.font.toList).writeBytes Config.romBase image.rom

/-- The state the `reset` event leaves (70_reset_and_hazards.md R240, 10_state.md R43). What is the environment's, the schedule
and the random port, is not the machine's to reset (logs 1, 2). -/
def State.afterReset (image : ResetImage) (s : State) : State :=
  { State.reset with
    mem := image.memory
    events := s.events
    eventTail := s.eventTail
    randQueue := s.randQueue
    randDraws := s.randDraws }

/-- The `reset` event. A `ROM` that does not fit is outside the model (R55, U17; log 5). -/
def resetEvent (image : ResetImage) (s : State) : Result :=
  if image.rom.length ≤ Config.romMax then .next (s.afterReset image) else .refused .romTooLong

/-- What an event does (R213). -/
def applyEvent (e : Event) (s : State) : Result :=
  match e with
  | .reset image => resetEvent image s
  | .start => .next s.started
  | .stop => .next s.stopped
  | .step => stepEvent s
  | .dtTick => .next s.dtTick
  | .stTick => .next s.stTick
  | .keyDown k => .next (s.keyDown k)
  | .keyUp k => .next (s.keyUp k)

/-- The event that comes next (R214; log 1): the head of the list; after the list a `step`, or an event of the free order. -/
def State.nextEvent (s : State) : Event :=
  match s.events, s.eventTail with
  | e :: _, _ => e
  | [], .steps => .step
  | [], .free drawn => Config.freeEvent drawn

/-- The state with that event taken from the schedule. -/
def State.eventTaken (s : State) : State :=
  match s.events, s.eventTail with
  | _ :: rest, tail => s.setSchedule rest tail
  | [], .steps => s
  | [], .free drawn => s.setSchedule [] (.free (drawn + 1))

/-- One move of the machine: the event that comes next. -/
def nextMove (s : State) : Result := applyEvent s.nextEvent s.eventTaken

/-- The machine under an order of events given from outside, whatever its schedule says: `k` events from the `n`-th on, one after the
other (R214). -/
def playFrom (order : Nat → Event) : Nat → Nat → State → Result
  | _, 0, s => .next s
  | n, k + 1, s =>
    match applyEvent (order n) s with
    | .next t => playFrom order (n + 1) k t
    | .fault r => .fault r
    | .refused r => .refused r

/-- Where the next fetch is made from when a word is placed there: at `PC`, or at the entry point where two bytes at `PC` would lie
outside memory. -/
def State.fetchSpot (s : State) : Word := if s.pc.toNat + 2 ≤ Config.memSize then s.pc else Config.entry

/-- The state in which the next move fetches and runs the word `w`: its bytes stand at the fetch address, high byte first (R56), nothing
but `step` events comes, and `step` is enabled (`RUN = 1`, no fault). This stands for the loader and `start` (log 4). -/
def State.placeWord (s : State) (w : Word) : State :=
  { s with
    mem := s.mem.writeBytes s.fetchSpot.toNat (bytesOfWord w)
    pc := s.fetchSpot
    faultReg := ⟨.none, 0⟩
    run := true
    events := []
    eventTail := .steps }

end Sys2Proof.Machine
end

