-- ==== Sys2Proof/Machine/Step.lean ====
section
/-! DEFINITION. The step function, and how a word is placed for the next fetch. -/

namespace Sys2Proof.Machine

/-- One move of the machine (60_exceptions.md R213, R214). -/
def step : State → Host.Outcome State Fault Refusal := fun s => nextMove s

/-- `s` with the instruction whose bits are `w` (as spec/opcode_table.json numbers them) placed so that the next step runs it. -/
def State.withFetchWord (s : State) (nbits w : Nat) : State := s.placeWord (tableWord nbits w)

end Sys2Proof.Machine
end

