-- ==== Sys2Proof/Safety.lean ====
section
/-! DEFINITION. What counts as a safe run and as a finished one, and the invariant of the machine, in the terms claims use. -/

namespace Sys2Proof.Machine

/-- "Gone wrong": a fault is recorded (60_exceptions.md R203). -/
def State.goneWrong (s : State) : Prop := s.faultReg.cause ≠ .none

/-- A state is safe while no fault is recorded. -/
def State.safe (s : State) : Prop := s.faultReg.cause = .none

/-- "Finished": `PC = a` and the word at `a` is `1nnn` with `nnn = a` (70_reset_and_hazards.md R262). -/
def State.finished (s : State) : Prop := ∃ nnn : BitVec 12, s.pc = addrOperand nnn ∧ s.fetch = .ok (encode (.jp nnn))

/-- An event comes again and again in an order: what weak fairness says of a driver (60_exceptions.md R214). -/
def Endlessly (order : Nat → Event) (e : Event) : Prop := ∀ n, ∃ j, n ≤ j ∧ order j = e

/-- A legal stack pointer: −1 to 15 (10_state.md R30). -/
def spLegal (sp : BitVec 5) : Prop := sp = spEmpty ∨ sp.toNat ≤ 15

/-- What a recorded fault looks like (60_exceptions.md R201, R203): no address without a cause or for a stack fault, an address
outside memory for `OUT_OF_RANGE`, and the stack as the faulting instruction found it. -/
def State.faultLegal (s : State) : Prop :=
  match s.faultReg.cause with
  | .none => s.faultReg.addr = 0
  | .outOfRange => 4096 ≤ s.faultReg.addr.toNat
  | .stackOverflow => s.faultReg.addr = 0 ∧ s.sp = spFull
  | .stackUnderflow => s.faultReg.addr = 0 ∧ s.sp = spEmpty

/-- The invariant: memory is in its canonical form, `SP` is legal (R30), every stack entry is a return address some CALL can push
(at most 0x1000, 40_control_transfer.md R102), `PC` is at most 0x10FE (R26), and `FAULT` is legal. -/
structure State.Inv (s : State) : Prop where
  memWf : s.mem.wf
  spOk : spLegal s.sp
  stackOk : ∀ k : RegIdx, (s.stack[k.toNat]'(regIdx_lt k)).toNat ≤ 0x1000
  pcOk : s.pc.toNat ≤ 0x10FE
  faultOk : s.faultLegal

/-- The bit a sprite puts on pixel `(px, py)`, the sprite's rows being bytes with the leftmost column in bit 7 and its left top
corner at `(bx, ty)`: row `py − ty`, column `px − bx`; nothing beside the sprite or off the screen (44_display.md R150, R153). -/
def spriteBit (rows : List Byte) (bx ty px py : Nat) : Bool :=
  decide (bx ≤ px ∧ px < bx + 8 ∧ ty ≤ py ∧ py < ty + rows.length ∧ px < 64 ∧ py < 32) &&
    (rows.getD (py - ty) 0).getLsbD (7 - (px - bx))

end Sys2Proof.Machine
end

