-- ==== Sys2Proof/Certificates/Slice0/Obligations.lean ====
section
/-! DEFINITION. The statements for the provers, from the numbered rules of spec/. A docstring names the rule, and where a clause rests on
a decision of 92_eei_decisions.md (D), on a part of the spec marked derived or from general knowledge, or on a log entry of the model,
it says so. -/

namespace Sys2Proof.Machine

/-- The parts of the state a frame speaks of. -/
inductive Part where
  | regs | pc | index | stack | sp | dt | st | mem | fb | keys | klatch | fault | run | events | rand
  deriving DecidableEq, Repr

/-- Every part not listed is as before: every register, every stack entry, EVERY BYTE of memory, every pixel and every key by its read,
the other parts as they are. -/
structure SameBut (ps : List Part) (s t : State) : Prop where
  regs : .regs ∉ ps → ∀ r, t.reg r = s.reg r
  pc : .pc ∉ ps → t.pc = s.pc
  index : .index ∉ ps → t.index = s.index
  stack : .stack ∉ ps → ∀ k : RegIdx, t.stack[k.toNat]'(regIdx_lt k) = s.stack[k.toNat]'(regIdx_lt k)
  sp : .sp ∉ ps → t.sp = s.sp
  dt : .dt ∉ ps → t.dt = s.dt
  st : .st ∉ ps → t.st = s.st
  mem : .mem ∉ ps → ∀ a, t.mem.get a = s.mem.get a
  fb : .fb ∉ ps → ∀ px py, t.fb.pixel px py = s.fb.pixel px py
  keys : .keys ∉ ps → ∀ q, t.keyPressed q = s.keyPressed q
  klatch : .klatch ∉ ps → t.klatch = s.klatch
  fault : .fault ∉ ps → t.faultReg = s.faultReg
  run : .run ∉ ps → t.run = s.run
  events : .events ∉ ps → t.events = s.events ∧ t.eventTail = s.eventTail
  rand : .rand ∉ ps → t.randQueue = s.randQueue ∧ t.randDraws = s.randDraws

/-- The instruction only writes `V[x]`, with `b`, and advances. -/
def WritesOnly (x : RegIdx) (b : Byte) (s t : State) : Prop :=
  t.reg x = b ∧ (∀ r, r ≠ x → t.reg r = s.reg r) ∧ t.pc = s.pc + 2 ∧ SameBut [.regs, .pc] s t

/-- The instruction writes `V[x]`, with `result`, and `VF`, with `flag` (lost when `x` is 15), and advances. -/
def WritesFlagAnd (x : RegIdx) (flag result : Nat) (s t : State) : Prop :=
  (t.reg x).toNat = result ∧ (x ≠ vf → (t.reg vf).toNat = flag) ∧ (∀ r, r ≠ x → r ≠ vf → t.reg r = s.reg r) ∧
  t.pc = s.pc + 2 ∧ SameBut [.regs, .pc] s t

/-- The instruction raises a fault: `FAULT` is written and nothing else. -/
def Faults (i : Instr) (s : State) (cause : FaultCause) (addr : Nat) : Prop :=
  ∃ t, exec i s = .next t ∧ t.faultReg.cause = cause ∧ t.faultReg.addr.toNat = addr ∧ SameBut [.fault] s t

/-- The bit the sprite of `n` bytes at `I` puts on pixel `(px, py)` with its left top corner at `(bx, ty)`: row `py − ty` is the byte
at `I + (py − ty)`, column `px − bx` its bit `7 − (px − bx)`; nothing beside the sprite, nothing off the screen. -/
def drawnBit (s : State) (bx ty n px py : Nat) : Bool :=
  decide (bx ≤ px ∧ px < bx + 8 ∧ ty ≤ py ∧ py < ty + n ∧ px < 64 ∧ py < 32) &&
    (s.mem.get (s.index.toNat + (py - ty))).getLsbD (7 - (px - bx))

/-- The instruction at `PC` is `i`, and `step` is enabled. -/
def Ready (s : State) (i : Instr) : Prop :=
  s.run = true ∧ s.faultReg.cause = .none ∧ s.pc.toNat + 2 ≤ 4096 ∧
  decodeBytes [s.mem.get s.pc.toNat, s.mem.get (s.pc.toNat + 1)] = .ok (i, [])

end Sys2Proof.Machine

open Sys2Proof Sys2Proof.Machine

/-! ## Encoding (30_encoding.md) -/

/-- Decode and encode agree on every well-formed instruction with every operand, as words and as bytes in memory order (R70, R71,
R76; the bit patterns are the spec's own, D2). -/
def Obligations.DecodeOfEncodeIsTheInstruction : Prop :=
  ∀ i : Instr, i.wellFormed = true →
    decode (encode i) = i ∧ ∀ rest, decodeBytes (hiByte (encode i) :: loByte (encode i) :: rest) = .ok (i, rest)

/-- Every word decodes to a well-formed instruction whose word it is: no two words have one meaning (R73, R78). -/
def Obligations.EncodeOfDecodeIsTheWord : Prop :=
  ∀ w : Word, (decode w).wellFormed = true ∧ encode (decode w) = w

/-- R73, R74: `decode` takes the first descriptor that matches and extracts its arguments by mask and shift; where none matches the
mnemonic is UNKNOWN with the raw opcode and no arguments. -/
def Obligations.DecodeTakesTheFirstMatch : Prop :=
  ∀ w : Word,
    (∀ before d after, opcodeTable = before ++ d :: after → w &&& d.mask = d.code → (∀ e ∈ before, w &&& e.mask ≠ e.code) →
      decodeRecord w = ⟨d.name, w, d.args.map fun a => ((w &&& a.mask) >>> a.shift).toNat⟩) ∧
    ((∀ d ∈ opcodeTable, w &&& d.mask ≠ d.code) → decodeRecord w = ⟨"UNKNOWN", w, []⟩)

/-- R77 (marked derived there): the only descriptors that share a word are CLS and RET with SYS, and they stand before it. -/
def Obligations.OnlyClsAndRetOverlapSys : Prop :=
  ∀ before d middle e after, opcodeTable = before ++ d :: middle ++ e :: after →
    ∀ w : Word, w &&& d.mask = d.code → w &&& e.mask = e.code → (d.name = "CLS" ∨ d.name = "RET") ∧ e.name = "SYS"

/-- R78 (its list is marked derived): the unknown words are exactly the listed ones. -/
def Obligations.UnknownWordsAreTheListedOnes : Prop :=
  ∀ w : Word, decode w = .unknown w ↔ isUnknownWord w = true

/-- A word of each family, written out from its pattern: `0x1234` and `0x8014` are the source's own (95_test_vectors.md S1, S2). -/
def Obligations.WordsOfEachFamilyDecode : Prop :=
  decode 0x1234 = .jp 0x234 ∧ decode 0x8014 = .addVxVy 0 1 ∧ decode 0x3A7F = .seVxNn 10 0x7F ∧ decode 0xC7F0 = .rnd 7 0xF0 ∧
  decode 0xD12F = .drw 1 2 15 ∧ decode 0xE1A1 = .sknp 1 ∧ decode 0xF118 = .ldStVx 1 ∧ decode 0xF155 = .ldMemVx 1 ∧
  decode 0x00EE = .ret ∧ decode 0x00EF = .sys 0x0EF ∧ decode 0x8AB8 = .unknown 0x8AB8

/-! ## The step event (40_control_transfer.md R100) -/

/-- R100, R56: where `step` is enabled and the two bytes at `PC` decode to `i`, and the event that comes next is `step`, a move
is `exec i` from the state with that event taken; where nothing but `step` events is to come, from the state itself (log 1). -/
def Obligations.StepRunsTheDecodedInstruction : Prop :=
  ∀ s i, Ready s i →
    (s.nextEvent = .step → step s = exec i s.eventTaken) ∧
    (s.events = [] → s.eventTail = .steps → step s = exec i s)

/-- R56, R201 (D11, D13): where a `step` event comes next, a fetch with a byte outside memory raises `OUT_OF_RANGE` with `PC`, or 4096 for
`PC = 4095`, and nothing else happens but that the event is taken from the schedule (log 1, the model's choice). -/
def Obligations.FetchOutsideMemoryFaults : Prop :=
  ∀ s : State, s.run = true → s.faultReg.cause = .none → 0x0FFE < s.pc.toNat → s.nextEvent = .step →
    ∃ t, step s = .next t ∧ t.faultReg.cause = .outOfRange ∧
      t.faultReg.addr.toNat = (if 4096 ≤ s.pc.toNat then s.pc.toNat else 4096) ∧ SameBut [.fault] s.eventTaken t

/-- R100: a `step` event that is not enabled changes nothing, but that it is taken from the schedule (log 1). -/
def Obligations.DisabledStepChangesNothing : Prop :=
  ∀ s : State, s.run = false ∨ s.faultReg.cause ≠ .none →
    s.nextEvent = .step → step s = .next s.eventTaken

/-- The host's way to place a word (log 4): whatever the state, the next move runs exactly it. -/
def Obligations.PlacedWordRunsNext : Prop :=
  ∀ (s : State) (w : Nat), s.mem.wf → w < 65536 →
    step (s.withFetchWord 16 w) = exec (decode (BitVec.ofNat 16 w)) (s.withFetchWord 16 w)

/-- R63 (marked derived): a store over the next instruction is what the next fetch decodes (where the event that
comes next is a `step`: log 1). -/
def Obligations.StoreIsSeenByTheNextFetch : Prop :=
  ∀ (x : RegIdx) (s t : State), s.mem.wf → 1 ≤ x.toNat → s.index = s.pc + 2 → s.index.toNat + x.toNat < 4096 →
    s.run = true → s.faultReg.cause = .none → s.nextEvent = .step → exec (.ldMemVx x) s = .next t →
    step t = exec (decode (wordOfBytes (s.reg 0) (s.reg 1))) t.eventTaken

/-- No instruction ends a run, and no event but a `reset` with a `ROM` that does not fit (log 5) where it comes next (log 1) does. -/
def Obligations.EveryMoveHasANextState : Prop :=
  (∀ (i : Instr) (s : State), ∃ t, exec i s = .next t) ∧
  (∀ s : State, (∀ image, s.nextEvent = .reset image → image.rom.length ≤ 3584) → ∃ t, step s = .next t)

/-! ## Control transfer and skips -/

/-- R101. Only the operand 0xFFF leaves a `PC` the next fetch faults at, and a jump to itself changes nothing. -/
def Obligations.JumpGoesToItsOperand : Prop :=
  ∀ (nnn : BitVec 12) (s : State), decode (encodeA 0x1 nnn) = .jp nnn ∧
    ∃ t, exec (.jp nnn) s = .next t ∧ t.pc.toNat = nnn.toNat ∧ SameBut [.pc] s t ∧
      (4096 < t.pc.toNat + 2 ↔ nnn = 0xFFF) ∧ (s.pc.toNat = nnn.toNat → t = s)

/-- R104 (D5): the sum with `V[0]` is not masked. -/
def Obligations.JumpV0AddsRegisterZero : Prop :=
  ∀ (nnn : BitVec 12) (s : State),
    ∃ t, exec (.jpV0 nnn) s = .next t ∧ t.pc.toNat = nnn.toNat + (s.reg 0).toNat ∧ SameBut [.pc] s t

/-- R102 (D12): CALL below a full stack pushes `PC + 2` one above and jumps; with `SP = 15` it raises `STACK_OVERFLOW`. -/
def Obligations.CallPushesTheReturnAddress : Prop :=
  ∀ (nnn : BitVec 12) (s : State), spLegal s.sp →
    (s.sp.toInt ≠ 15 → ∃ t, exec (.call nnn) s = .next t ∧ t.sp.toInt = s.sp.toInt + 1 ∧ t.pc.toNat = nnn.toNat ∧
      (∀ k : RegIdx, (k.toNat : Int) = t.sp.toInt → t.stack[k.toNat]'(regIdx_lt k) = s.pc + 2) ∧
      (∀ k : RegIdx, (k.toNat : Int) ≠ t.sp.toInt → t.stack[k.toNat]'(regIdx_lt k) = s.stack[k.toNat]'(regIdx_lt k)) ∧
      SameBut [.pc, .sp, .stack] s t) ∧
    (s.sp.toInt = 15 → Faults (.call nnn) s .stackOverflow 0)

/-- R103 (D12): RET with a live entry goes to it and leaves it in the stack; with `SP = −1` it raises `STACK_UNDERFLOW`. -/
def Obligations.ReturnPopsTheReturnAddress : Prop :=
  ∀ s : State, spLegal s.sp →
    (s.sp.toInt ≠ -1 → ∃ t, exec .ret s = .next t ∧ t.sp.toInt = s.sp.toInt - 1 ∧
      (∀ k : RegIdx, (k.toNat : Int) = s.sp.toInt → t.pc = s.stack[k.toNat]'(regIdx_lt k)) ∧ SameBut [.pc, .sp] s t) ∧
    (s.sp.toInt = -1 → Faults .ret s .stackUnderflow 0)

/-- 95_test_vectors.md S12: a call and then a return, whatever the subroutine did to the rest, resumes after the call. -/
def Obligations.ReturnResumesAfterTheCall : Prop :=
  ∀ (nnn : BitVec 12) (s t u : State), spLegal s.sp → s.sp ≠ spFull → exec (.call nnn) s = .next t →
    u.stack = t.stack → u.sp = t.sp → ∃ r, exec .ret u = .next r ∧ r.pc = s.pc + 2 ∧ r.sp = s.sp

/-- R110, R111, R112, R113: each skip goes on at `PC + 4` when its condition holds, else at `PC + 2`, and changes nothing else. -/
def Obligations.RegisterSkipsFollowTheirCompare : Prop :=
  ∀ (x y : RegIdx) (nn : Byte) (s : State),
    (decode (encodeXI 0x3 x nn) = .seVxNn x nn ∧ ∃ t, exec (.seVxNn x nn) s = .next t ∧
      t.pc = (if (s.reg x).toNat = nn.toNat then s.pc + 4 else s.pc + 2) ∧ SameBut [.pc] s t) ∧
    (decode (encodeXI 0x4 x nn) = .sneVxNn x nn ∧ ∃ t, exec (.sneVxNn x nn) s = .next t ∧
      t.pc = (if (s.reg x).toNat = nn.toNat then s.pc + 2 else s.pc + 4) ∧ SameBut [.pc] s t) ∧
    (decode (encodeXY 0x5 x y 0x0) = .seVxVy x y ∧ ∃ t, exec (.seVxVy x y) s = .next t ∧
      t.pc = (if (s.reg x).toNat = (s.reg y).toNat then s.pc + 4 else s.pc + 2) ∧ SameBut [.pc] s t) ∧
    (decode (encodeXY 0x9 x y 0x0) = .sneVxVy x y ∧ ∃ t, exec (.sneVxVy x y) s = .next t ∧
      t.pc = (if (s.reg x).toNat = (s.reg y).toNat then s.pc + 2 else s.pc + 4) ∧ SameBut [.pc] s t)

/-! ## Loads and arithmetic (42_load_alu.md) -/

/-- R120, R122. -/
def Obligations.RegisterLoadsWriteTheirOperand : Prop :=
  ∀ (x y : RegIdx) (nn : Byte) (s : State),
    (decode (encodeXI 0x6 x nn) = .ldVxNn x nn ∧ ∃ t, exec (.ldVxNn x nn) s = .next t ∧ WritesOnly x nn s t) ∧
    (decode (encodeXY 0x8 x y 0x0) = .ldVxVy x y ∧ ∃ t, exec (.ldVxVy x y) s = .next t ∧ WritesOnly x (s.reg y) s t)

/-- R121: the sum wraps modulo 256 and `VF` is not written unless it is `V[x]`. -/
def Obligations.AddImmediateWrapsWithoutFlag : Prop :=
  ∀ (x : RegIdx) (nn : Byte) (s : State),
    decode (encodeXI 0x7 x nn) = .addVxNn x nn ∧
    ∃ t, exec (.addVxNn x nn) s = .next t ∧ WritesOnly x (t.reg x) s t ∧
      (t.reg x).toNat = ((s.reg x).toNat + nn.toNat) % 256

/-- R123, R124, R125: OR, AND, XOR bit by bit; `VF` is not written unless it is `V[x]`. -/
def Obligations.BitwiseOperationsLeaveTheFlag : Prop :=
  ∀ (x y : RegIdx) (s : State),
    (decode (encodeXY 0x8 x y 0x1) = .orVxVy x y ∧ ∃ t, exec (.orVxVy x y) s = .next t ∧ WritesOnly x (t.reg x) s t ∧
      ∀ k, k < 8 → (t.reg x).getLsbD k = ((s.reg x).getLsbD k || (s.reg y).getLsbD k)) ∧
    (decode (encodeXY 0x8 x y 0x2) = .andVxVy x y ∧ ∃ t, exec (.andVxVy x y) s = .next t ∧ WritesOnly x (t.reg x) s t ∧
      ∀ k, k < 8 → (t.reg x).getLsbD k = ((s.reg x).getLsbD k && (s.reg y).getLsbD k)) ∧
    (decode (encodeXY 0x8 x y 0x3) = .xorVxVy x y ∧ ∃ t, exec (.xorVxVy x y) s = .next t ∧ WritesOnly x (t.reg x) s t ∧
      ∀ k, k < 8 → (t.reg x).getLsbD k = ((s.reg x).getLsbD k ^^ (s.reg y).getLsbD k))

/-- R126 with R131 (D17 for `x` or `y` 15): carry out in `VF`, the wrapped sum in `V[x]`, both from the operands before any write. -/
def Obligations.AddSetsCarryAndWraps : Prop :=
  ∀ (x y : RegIdx) (s : State),
    ∃ t, exec (.addVxVy x y) s = .next t ∧
      WritesFlagAnd x (if 255 < (s.reg x).toNat + (s.reg y).toNat then 1 else 0)
        (((s.reg x).toNat + (s.reg y).toNat) % 256) s t

/-- R127, R129 with R131 (D15, D17): the flag is 1 exactly when the minuend is strictly greater, so 0 for equal operands. -/
def Obligations.SubtractionsSetTheStrictFlag : Prop :=
  ∀ (x y : RegIdx) (s : State),
    (∃ t, exec (.subVxVy x y) s = .next t ∧
      WritesFlagAnd x (if (s.reg y).toNat < (s.reg x).toNat then 1 else 0)
        ((((s.reg x).toNat : Int) - (s.reg y).toNat) % 256).toNat s t) ∧
    (∃ t, exec (.subnVxVy x y) s = .next t ∧
      WritesFlagAnd x (if (s.reg x).toNat < (s.reg y).toNat then 1 else 0)
        ((((s.reg y).toNat : Int) - (s.reg x).toNat) % 256).toNat s t)

/-- R128, R130 with R131 (D16, D17): shifts by one of `V[x]` in place, the bit shifted out in `VF`; `V[y]` plays no part. -/
def Obligations.ShiftsMoveTheRegisterInPlace : Prop :=
  ∀ (x y : RegIdx) (s : State),
    (∃ t, exec (.shrVx x y) s = .next t ∧ WritesFlagAnd x ((s.reg x).toNat % 2) ((s.reg x).toNat / 2) s t) ∧
    (∃ t, exec (.shlVx x y) s = .next t ∧ WritesFlagAnd x ((s.reg x).toNat / 128) ((s.reg x).toNat * 2 % 256) s t)

/-! ## Index register and random (43_index_random.md) -/

/-- R140, R143: `I` gets the 12-bit operand, or five times the whole register value, and no other instruction lowers `I`. -/
def Obligations.IndexLoadsAddressAndGlyph : Prop :=
  (∀ (i : Instr) (s t : State), exec i s = .next t → t.index.toNat < s.index.toNat →
    (∃ nnn, i = .ldINnn nnn) ∨ ∃ x, i = .ldFVx x) ∧
  ∀ (nnn : BitVec 12) (x : RegIdx) (s : State),
    (decode (encodeA 0xA nnn) = .ldINnn nnn ∧ ∃ t, exec (.ldINnn nnn) s = .next t ∧ t.index.toNat = nnn.toNat ∧
      t.pc = s.pc + 2 ∧ SameBut [.index, .pc] s t) ∧
    (decode (encodeX 0xF x 0x29) = .ldFVx x ∧ ∃ t, exec (.ldFVx x) s = .next t ∧ t.index.toNat = (s.reg x).toNat * 5 ∧
      t.pc = s.pc + 2 ∧ SameBut [.index, .pc] s t)

/-- R141 (D8, D18): the sum saturates at 0xFFFF and writes no flag. -/
def Obligations.IndexAddSaturates : Prop :=
  ∀ (x : RegIdx) (s : State),
    ∃ t, exec (.addIVx x) s = .next t ∧
      t.index.toNat = (if s.index.toNat + (s.reg x).toNat ≤ 65535 then s.index.toNat + (s.reg x).toNat else 65535) ∧
      t.pc = s.pc + 2 ∧ SameBut [.index, .pc] s t

/-- R142 (D30, log 2): `V[x]` gets the port's byte under the mask, whatever that byte is; each execution takes one, from the bytes the
port has ready or else a free one, and the next execution another. -/
def Obligations.RandomByteIsMasked : Prop :=
  ∀ (x : RegIdx) (nn : Byte) (s : State),
    ∃ t, exec (.rnd x nn) s = .next t ∧ (∀ r, r ≠ x → t.reg r = s.reg r) ∧ t.pc = s.pc + 2 ∧
      SameBut [.regs, .pc, .rand] s t ∧ t.reg x &&& ~~~nn = 0 ∧
      (∀ r rest, s.randQueue = r :: rest → t.reg x = r &&& nn ∧ t.randQueue = rest ∧ t.randDraws = s.randDraws) ∧
      (s.randQueue = [] → t.reg x = Config.freeByte s.randDraws &&& nn ∧ t.randQueue = [] ∧ t.randDraws = s.randDraws + 1)

/-! ## Display (44_display.md) -/

/-- R152, R151 (D6): every pixel goes off; `VF` is not written. -/
def Obligations.ClearTurnsEveryPixelOff : Prop :=
  ∀ s : State, ∃ t, exec .cls s = .next t ∧ (∀ px py, t.fb.pixel px py = false) ∧ t.pc = s.pc + 2 ∧ SameBut [.fb, .pc] s t

/-- R153, R150 (D19, D20): with its bytes inside memory, or none, the sprite toggles exactly the pixels under its 1 bits, clipped at
the screen's edges, from coordinates read before `VF` is written; `VF` says whether a set pixel was cleared. -/
def Obligations.DrawTogglesTheSpritesPixels : Prop :=
  ∀ (x y : RegIdx) (n : BitVec 4) (s : State), n.toNat = 0 ∨ s.index.toNat + n.toNat ≤ 4096 →
    ∃ t, exec (.drw x y n) s = .next t ∧
      (∀ px py, t.fb.pixel px py =
        (s.fb.pixel px py ^^ drawnBit s (s.reg x).toNat (s.reg y).toNat n.toNat px py)) ∧
      (t.reg vf = 1 ∨ t.reg vf = 0) ∧
      (t.reg vf = 1 ↔ ∃ px py, s.fb.pixel px py = true ∧
        drawnBit s (s.reg x).toNat (s.reg y).toNat n.toNat px py = true) ∧
      (∀ r, r ≠ vf → t.reg r = s.reg r) ∧ t.pc = s.pc + 2 ∧ SameBut [.regs, .fb, .pc] s t

/-- 95_test_vectors.md S8: a sprite drawn twice from registers other than `VF` leaves the framebuffer as it was; where the first draw
met no set pixel and had one bit on the screen, the second reports a collision. -/
def Obligations.DrawTwiceRestoresTheScreen : Prop :=
  ∀ (x y : RegIdx) (n : BitVec 4) (s t u : State), x ≠ vf → y ≠ vf → n.toNat = 0 ∨ s.index.toNat + n.toNat ≤ 4096 →
    exec (.drw x y n) s = .next t → exec (.drw x y n) t = .next u →
    (∀ px py, u.fb.pixel px py = s.fb.pixel px py) ∧
    (t.reg vf = 0 → (∃ px py, drawnBit s (s.reg x).toNat (s.reg y).toNat n.toNat px py = true) → u.reg vf = 1)

/-! ## Keypad (45_keypad.md) and timers (46_timers.md) -/

/-- R163, R164, R161 (D21): the key skips look at the level of the key the register names; above 15 there is no such key. -/
def Obligations.KeySkipsFollowTheKeyLevel : Prop :=
  ∀ (x : RegIdx) (s : State),
    (∃ t, exec (.skp x) s = .next t ∧ t.pc = (if s.keyPressed (s.reg x) then s.pc + 4 else s.pc + 2) ∧ SameBut [.pc] s t) ∧
    (∃ t, exec (.sknp x) s = .next t ∧ t.pc = (if s.keyPressed (s.reg x) then s.pc + 2 else s.pc + 4) ∧ SameBut [.pc] s t) ∧
    (16 ≤ (s.reg x).toNat → s.keyPressed (s.reg x) = false) ∧
    (∀ h : (s.reg x).toNat < 16, s.keyPressed (s.reg x) = s.keys[(s.reg x).toNat]'h)

/-- R165, R162 (D22): with no key latched the state does not change at all; with one it is taken, stored and cleared. -/
def Obligations.KeyWaitTakesTheLatchedKey : Prop :=
  ∀ (x : RegIdx) (s : State),
    (s.klatch = none → exec (.ldVxK x) s = .next s) ∧
    (∀ k, s.klatch = some k → ∃ t, exec (.ldVxK x) s = .next t ∧ (t.reg x).toNat = k.toNat ∧
      (∀ r, r ≠ x → t.reg r = s.reg r) ∧ t.klatch = none ∧ t.pc = s.pc + 2 ∧ SameBut [.regs, .klatch, .pc] s t)

/-- R170, R171: the delay timer is read and written whole, and a read leaves it; `n` ticks after the write it holds the value written
less `n`, and 0 from then on. -/
def Obligations.DelayTimerTransfers : Prop :=
  ∀ (x : RegIdx) (s : State),
    (decode (encodeX 0xF x 0x07) = .ldVxDt x ∧ ∃ t, exec (.ldVxDt x) s = .next t ∧ WritesOnly x s.dt s t) ∧
    (decode (encodeX 0xF x 0x15) = .ldDtVx x ∧ ∃ t, exec (.ldDtVx x) s = .next t ∧ t.dt = s.reg x ∧
      t.pc = s.pc + 2 ∧ SameBut [.dt, .pc] s t ∧
      (s.run = true → ∀ n : Nat, (State.dtTick^[n] t).dt.toNat = (s.reg x).toNat - n))

/-- R172, R217 (D7, D27): the sound timer is written whole, and `SOUND` follows it. -/
def Obligations.SoundTimerDrivesSound : Prop :=
  ∀ (x : RegIdx) (s : State),
    ∃ t, exec (.ldStVx x) s = .next t ∧ t.st = s.reg x ∧ t.pc = s.pc + 2 ∧ SameBut [.st, .pc] s t ∧
      (t.sound = true ↔ (s.reg x).toNat ≠ 0)

/-! ## Memory transfer (47_memory_transfer.md) -/

/-- R180 (D11 for the bound): three decimal digits at `I`, every other byte as before, `I` not moved. -/
def Obligations.BcdStoresThreeDigits : Prop :=
  ∀ (x : RegIdx) (s : State), s.mem.wf → s.index.toNat + 2 < 4096 →
    ∃ t, exec (.ldBVx x) s = .next t ∧
      (t.mem.get s.index.toNat).toNat = (s.reg x).toNat / 100 ∧
      (t.mem.get (s.index.toNat + 1)).toNat = (s.reg x).toNat / 10 % 10 ∧
      (t.mem.get (s.index.toNat + 2)).toNat = (s.reg x).toNat % 10 ∧
      (∀ a, a < s.index.toNat ∨ s.index.toNat + 2 < a → t.mem.get a = s.mem.get a) ∧
      t.pc = s.pc + 2 ∧ SameBut [.mem, .pc] s t

/-- R181 (D11 for the bound): `V[0]` to `V[x]` at ascending addresses, every other byte as before, `I` moved by `x`. -/
def Obligations.BlockStoreWritesTheRegisters : Prop :=
  ∀ (x : RegIdx) (s : State), s.mem.wf → s.index.toNat + x.toNat < 4096 →
    ∃ t, exec (.ldMemVx x) s = .next t ∧
      (∀ k : RegIdx, k.toNat ≤ x.toNat → t.mem.get (s.index.toNat + k.toNat) = s.reg k) ∧
      (∀ a, a < s.index.toNat ∨ s.index.toNat + x.toNat < a → t.mem.get a = s.mem.get a) ∧
      t.index.toNat = s.index.toNat + x.toNat ∧ t.pc = s.pc + 2 ∧ SameBut [.mem, .index, .pc] s t

/-- R182 (D11 for the bound): `V[0]` to `V[x]` from ascending addresses, the registers above `x` as before, `I` moved by `x`. -/
def Obligations.BlockLoadReadsTheRegisters : Prop :=
  ∀ (x : RegIdx) (s : State), s.index.toNat + x.toNat < 4096 →
    ∃ t, exec (.ldVxMem x) s = .next t ∧
      (∀ k : RegIdx, k.toNat ≤ x.toNat → t.reg k = s.mem.get (s.index.toNat + k.toNat)) ∧
      (∀ k : RegIdx, x.toNat < k.toNat → t.reg k = s.reg k) ∧
      t.index.toNat = s.index.toNat + x.toNat ∧ t.pc = s.pc + 2 ∧ SameBut [.regs, .index, .pc] s t

/-- 95_test_vectors.md S9: registers stored and, whatever happened to the registers since, loaded back from the same address are the
old ones. -/
def Obligations.StoreThenLoadRestoresTheRegisters : Prop :=
  ∀ (x : RegIdx) (s t u : State), s.mem.wf → s.index.toNat + x.toNat < 4096 → exec (.ldMemVx x) s = .next t →
    u.mem = t.mem → u.index = s.index →
    ∃ r, exec (.ldVxMem x) u = .next r ∧ ∀ k : RegIdx, k.toNat ≤ x.toNat → r.reg k = s.reg k

/-! ## No-ops (48_system_unknown.md) -/

/-- R191: an unknown word changes nothing but `PC`, and raises no fault. -/
def Obligations.UnknownWordIsANoOp : Prop :=
  ∀ (w : Word) (s : State), (∀ d ∈ opcodeTable, w &&& d.mask ≠ d.code) →
    decodeRecord w = ⟨"UNKNOWN", w, []⟩ ∧ ∃ t, decode w = .unknown w ∧ exec (decode w) s = .next t ∧ t.pc = s.pc + 2 ∧ SameBut [.pc] s t

/-- R190 (D4): SYS does what an unknown word does. -/
def Obligations.SysIsANoOp : Prop :=
  ∀ (nnn : BitVec 12) (s : State), ∃ t, exec (.sys nnn) s = .next t ∧ t.pc = s.pc + 2 ∧ SameBut [.pc] s t

/-! ## Faults (60_exceptions.md) -/

/-- R201, R203 (D11, D13): a data access with a byte outside memory raises `OUT_OF_RANGE` with the lowest such address, and changes
nothing else. -/
def Obligations.DataAccessOutsideMemoryFaults : Prop :=
  ∀ (x y : RegIdx) (n : BitVec 4) (s : State),
    (n.toNat ≠ 0 → 4096 < s.index.toNat + n.toNat → Faults (.drw x y n) s .outOfRange (max s.index.toNat 4096)) ∧
    (4096 ≤ s.index.toNat + 2 → Faults (.ldBVx x) s .outOfRange (max s.index.toNat 4096)) ∧
    (4096 ≤ s.index.toNat + x.toNat → Faults (.ldMemVx x) s .outOfRange (max s.index.toNat 4096)) ∧
    (4096 ≤ s.index.toNat + x.toNat → Faults (.ldVxMem x) s .outOfRange (max s.index.toNat 4096))

/-- R200, R201, R207 (D13): an instruction records a fault exactly under the conditions of R201's table. -/
def Obligations.InstructionsFaultExactlyAsListed : Prop :=
  ∀ (i : Instr) (s t : State), s.faultReg.cause = .none → exec i s = .next t →
    (t.faultReg.cause = .outOfRange ↔
      (∃ x y n, i = .drw x y n ∧ 0 < n.toNat ∧ 4096 < s.index.toNat + n.toNat) ∨
      (∃ x, i = .ldBVx x ∧ 4096 ≤ s.index.toNat + 2) ∨
      (∃ x, (i = .ldMemVx x ∨ i = .ldVxMem x) ∧ 4096 ≤ s.index.toNat + x.toNat)) ∧
    (t.faultReg.cause = .stackOverflow ↔ ∃ nnn, i = .call nnn ∧ s.sp = 15) ∧
    (t.faultReg.cause = .stackUnderflow ↔ i = .ret ∧ s.sp = 0b11111)

/-- R203 (D13): faults are precise: a move of the instruction engine that changes `FAULT` changes nothing else, and it starts from a
state with no fault. The move is a `step` event, taken from the schedule (log 1). -/
def Obligations.FaultsArePrecise : Prop :=
  ∀ s t : State, s.nextEvent = .step → step s = .next t → t.faultReg ≠ s.faultReg →
    s.faultReg.cause = .none ∧ t = { s.eventTaken with faultReg := t.faultReg }

/-- R205, R206 (D13, D36): a recorded fault stays until a `reset`, and until then only the timers, the keypad and `RUN` move, and the
schedule (log 1). -/
def Obligations.FaultStaysUntilReset : Prop :=
  ∀ s t : State, s.goneWrong → step s = .next t →
    (∃ image, s.nextEvent = .reset image) ∨ SameBut [.dt, .st, .keys, .klatch, .run, .events] s t

/-! ## Who may write what (10_state.md) -/

/-- R23, R28, R29, R30, R31, R32, R33, R34, R36, R40: the writers of each state element among the instructions, and no others.
The schedule, which no instruction writes, is the model's own (log 1). -/
def Obligations.EachElementHasOnlyItsWriters : Prop :=
  ∀ (i : Instr) (s t : State), exec i s = .next t →
    (t.index ≠ s.index → (∃ nnn, i = .ldINnn nnn) ∨ ∃ x, i = .addIVx x ∨ i = .ldFVx x ∨ i = .ldMemVx x ∨ i = .ldVxMem x) ∧
    (t.stack ≠ s.stack → ∃ nnn, i = .call nnn) ∧
    (t.sp ≠ s.sp → i = .ret ∨ ∃ nnn, i = .call nnn) ∧
    (t.dt ≠ s.dt → ∃ x, i = .ldDtVx x) ∧
    (t.st ≠ s.st → ∃ x, i = .ldStVx x) ∧
    (t.mem ≠ s.mem → ∃ x, i = .ldBVx x ∨ i = .ldMemVx x) ∧
    (t.fb ≠ s.fb → i = .cls ∨ ∃ x y n, i = .drw x y n) ∧
    (t.klatch ≠ s.klatch → t.klatch = none ∧ ∃ x, i = .ldVxK x) ∧
    (t.reg vf ≠ s.reg vf →
      (∃ x y, i = .addVxVy x y ∨ i = .subVxVy x y ∨ i = .subnVxVy x y ∨ i = .shrVx x y ∨ i = .shlVx x y) ∨
      (∃ x y n, i = .drw x y n) ∨
      (∃ nn, i = .ldVxNn vf nn ∨ i = .addVxNn vf nn ∨ i = .rnd vf nn) ∨
      (∃ y, i = .ldVxVy vf y ∨ i = .orVxVy vf y ∨ i = .andVxVy vf y ∨ i = .xorVxVy vf y) ∨
      i = .ldVxDt vf ∨ i = .ldVxK vf ∨ i = .ldVxMem vf) ∧
    t.keys = s.keys ∧ t.run = s.run ∧ t.events = s.events ∧ t.eventTail = s.eventTail

/-- R32 (D7): no instruction can learn `ST`: runs from states that differ in `ST` alone differ in `ST` alone. -/
def Obligations.SoundTimerIsNeverRead : Prop :=
  ∀ (i : Instr) (s t : State) (a : Byte), exec i s = .next t → ∃ b, exec i { s with st := a } = .next { t with st := b }

/-- R31, R214: an instruction other than the two transfers of `DT` does the same before a delay tick as after it. -/
def Obligations.DelayTickCommutesWithOtherInstructions : Prop :=
  ∀ (i : Instr) (s t : State), (∀ x, i ≠ .ldVxDt x) → (∀ x, i ≠ .ldDtVx x) → exec i s = .next t →
    exec i s.dtTick = .next t.dtTick

/-! ## The other events (60_exceptions.md R213) -/

/-- R215, R216: while `RUN = 1` a tick takes one from its timer, never below 0, and changes nothing else; otherwise it changes
nothing. The event is the one that comes next and is taken from the schedule (log 1). -/
def Obligations.TicksCountTheirTimerDown : Prop :=
  ∀ s : State,
    (s.nextEvent = .dtTick → ∃ t, step s = .next t ∧
      t.dt.toNat = (if s.run = true ∧ 0 < s.dt.toNat then s.dt.toNat - 1 else s.dt.toNat) ∧ SameBut [.dt] s.eventTaken t) ∧
    (s.nextEvent = .stTick → ∃ t, step s = .next t ∧
      t.st.toNat = (if s.run = true ∧ 0 < s.st.toNat then s.st.toNat - 1 else s.st.toNat) ∧ SameBut [.st] s.eventTaken t)

/-- R160 (D22): a key going down sets its level and is latched; going up it clears its level and leaves the latch; whether `RUN` is 0
or 1. The event is the one that comes next and is taken from the schedule (log 1). -/
def Obligations.KeyEventsSetLevelAndLatch : Prop :=
  ∀ (s : State) (k : Key),
    (s.nextEvent = .keyDown k → ∃ t, step s = .next t ∧ t.klatch = some k ∧
      (∀ q : Byte, t.keyPressed q = if q.toNat = k.toNat then true else s.keyPressed q) ∧
      SameBut [.keys, .klatch] s.eventTaken t) ∧
    (s.nextEvent = .keyUp k → ∃ t, step s = .next t ∧
      (∀ q : Byte, t.keyPressed q = if q.toNat = k.toNat then false else s.keyPressed q) ∧ SameBut [.keys] s.eventTaken t)

/-- R213, R221, R206 (D29): `start` and `stop` write `RUN` and nothing else; `start` does not clear a fault. The
event is the one that comes next and is taken from the schedule (log 1). -/
def Obligations.StartAndStopWriteRunOnly : Prop :=
  ∀ s : State,
    (s.nextEvent = .start → ∃ t, step s = .next t ∧ t.run = true ∧ SameBut [.run] s.eventTaken t) ∧
    (s.nextEvent = .stop → ∃ t, step s = .next t ∧ t.run = false ∧ SameBut [.run] s.eventTaken t)

/-- R240, R43, R55 (D23, D24, D25, D29): from any state, faulted ones too, `reset` with a `ROM` that fits leaves the reset state and
the memory image; the schedule and the random port are the environment's and go on (logs 1, 2). A longer `ROM` is refused (log 5). -/
def Obligations.ResetLeavesTheResetState : Prop :=
  ∀ (s : State) (image : ResetImage), s.nextEvent = .reset image →
    (image.rom.length ≤ 3584 → ∃ t, step s = .next t ∧
      t.pc = 0x200 ∧ t.sp.toInt = -1 ∧ (∀ r, t.reg r = 0) ∧ t.index = 0 ∧
      (∀ k : RegIdx, t.stack[k.toNat]'(regIdx_lt k) = 0) ∧ t.dt = 0 ∧ t.st = 0 ∧ t.sound = false ∧
      (∀ px py, t.fb.pixel px py = false) ∧ (∀ q, t.keyPressed q = false) ∧ t.klatch = none ∧
      t.faultReg = ⟨.none, 0⟩ ∧ t.run = false ∧
      (∀ a : Nat, ∀ h : a < 80, t.mem.get a = image.font[a]'h) ∧
      (∀ a : Nat, ∀ h : a < image.rom.length, t.mem.get (0x200 + a) = image.rom[a]'h) ∧
      (∀ a : Nat, 80 ≤ a → a < 0x200 ∨ 0x200 + image.rom.length ≤ a → t.mem.get a = 0) ∧
      t.events = s.eventTaken.events ∧ t.eventTail = s.eventTaken.eventTail ∧ t.randQueue = s.randQueue ∧ t.randDraws = s.randDraws) ∧
    (3584 < image.rom.length → step s = .refused .romTooLong)

/-- R43: the model's `State.reset` is what the `reset` event leaves with the default `FONT` and an empty `ROM` (logs 3, 4), so that the
first move after it, a `step` event by the schedule it has (log 1), waits for `start`. -/
def Obligations.ResetStateIsResetWithNoRom : Prop :=
  State.reset = State.reset.afterReset ⟨Config.defaultFont, []⟩ ∧ step State.reset = .next State.reset

/-! ## The end of a run and the invariant -/

/-- R262 (D31): at a jump to itself every `step` leaves the whole state unchanged, but that the event is taken from the
schedule (log 1). -/
def Obligations.FinishedStateIsAFixedPoint : Prop :=
  ∀ s : State, s.finished → s.nextEvent = .step → step s = .next s.eventTaken

/-- Every move, of any agent and from every state that meets it, keeps the invariant: canonical memory, a legal `SP` (R30), stack
entries a CALL can push, `PC` at most 0x10FE (R26), a legal `FAULT` (R201). -/
def Obligations.EveryMoveKeepsTheInvariant : Prop :=
  ∀ s t : State, s.Inv → step s = .next t → t.Inv

/-- The invariant holds after reset. -/
def Obligations.ResetMeetsTheInvariant : Prop := State.reset.Inv

/-! ## The order of events (60_exceptions.md R214) -/

/-- The schedule (log 1, the model's choice): the listed events come in their order, after them `step` events or, each one once and in
its turn, the events of the free order, and taking one changes nothing but the schedule. -/
def Obligations.EventsComeInTheScheduledOrder : Prop :=
  ∀ s : State, SameBut [.events] s s.eventTaken ∧
    (∀ e rest, s.events = e :: rest →
      s.nextEvent = e ∧ s.eventTaken.events = rest ∧ s.eventTaken.eventTail = s.eventTail) ∧
    (s.events = [] → s.eventTail = .steps → s.nextEvent = .step ∧ s.eventTaken = s) ∧
    (∀ n, s.events = [] → s.eventTail = .free n →
      s.nextEvent = Config.freeEvent n ∧ s.eventTaken.events = [] ∧ s.eventTaken.eventTail = .free (n + 1))

/-- R214 (D28): "nothing else about their order is fixed". Whatever the order and however far it is followed, the machine makes those
moves: from a schedule that lists the events, whatever comes after them, and, for the free order, with nothing listed and without end.
The schedule is the model's (log 1). -/
def Obligations.MachinePlaysEveryOrder : Prop :=
  ∀ (order : Nat → Event) (n k : Nat) (s u : State), playFrom order n k s = .next u →
    core.run k (s.setSchedule ((List.range k).map (fun j => order (n + j)) ++ s.events) s.eventTail) = .next u ∧
    (order = Config.freeEvent → core.run k (s.setSchedule [] (.free n)) = .next (u.setSchedule [] (.free (n + k))))

/-- R214 (D28: weak fairness), R215, R216, R217, with R262 and R206: while the program has finished or a fault is recorded, and `RUN`
stays 1, every endless order in which a timer's ticks keep coming brings that timer to 0 for good, whatever steps, key events and other
ticks come between; for `ST` the sound ends. -/
def Obligations.TimersRunOutUnderEveryFairOrder : Prop :=
  ∀ (order : Nat → Event) (s : State), s.finished ∨ s.goneWrong → s.run = true →
    (∀ j, order j ≠ .stop) → (∀ j image, order j ≠ .reset image) →
    (Endlessly order .dtTick → ∃ n, ∀ k, n ≤ k → ∃ t, playFrom order 0 k s = .next t ∧ t.dt = 0) ∧
    (Endlessly order .stTick → ∃ n, ∀ k, n ≤ k → ∃ t, playFrom order 0 k s = .next t ∧ t.st = 0 ∧ t.sound = false)
end

