-- ==== Sys2Proof/Laws/Decode.lean ====
section
/-! SUPPORT. Words as four nibbles: what the masks, the fields and the encoding formats do to them, and the spec lemmas of `decode` and
of the byte order. -/

namespace Sys2Proof

/-! ## The nibbles of a word -/

@[simp] theorem encodeXY_nibble3 (op x y n : BitVec 4) : (encodeXY op x y n).extractLsb' 12 4 = op := by
  ext i hi; interval_cases i <;> simp [encodeXY, place]
@[simp] theorem encodeXY_nibble2 (op x y n : BitVec 4) : (encodeXY op x y n).extractLsb' 8 4 = x := by
  ext i hi; interval_cases i <;> simp [encodeXY, place]
@[simp] theorem encodeXY_nibble1 (op x y n : BitVec 4) : (encodeXY op x y n).extractLsb' 4 4 = y := by
  ext i hi; interval_cases i <;> simp [encodeXY, place]
@[simp] theorem encodeXY_nibble0 (op x y n : BitVec 4) : (encodeXY op x y n).extractLsb' 0 4 = n := by
  ext i hi; interval_cases i <;> simp [encodeXY, place]

/-- A word is its four nibbles. -/
theorem word_eq_nibbles (w : Word) :
    w = encodeXY (w.extractLsb' 12 4) (w.extractLsb' 8 4) (w.extractLsb' 4 4) (w.extractLsb' 0 4) := by
  ext i hi; interval_cases i <;> simp [encodeXY, place]

/-- Words with equal nibbles, and only those, are equal. -/
theorem encodeXY_inj (op x y n p q r t : BitVec 4) :
    encodeXY op x y n = encodeXY p q r t ↔ op = p ∧ x = q ∧ y = r ∧ n = t := by
  constructor
  · intro h
    refine ⟨?_, ?_, ?_, ?_⟩
    · simpa only [encodeXY_nibble3] using congrArg (BitVec.extractLsb' 12 4) h
    · simpa only [encodeXY_nibble2] using congrArg (BitVec.extractLsb' 8 4) h
    · simpa only [encodeXY_nibble1] using congrArg (BitVec.extractLsb' 4 4) h
    · simpa only [encodeXY_nibble0] using congrArg (BitVec.extractLsb' 0 4) h
  · rintro ⟨rfl, rfl, rfl, rfl⟩; rfl

/-- A word of four nibbles is a given word when each nibble is that word's. -/
theorem encodeXY_eq_iff (op x y n : BitVec 4) (c : Word) :
    encodeXY op x y n = c ↔ op = c.extractLsb' 12 4 ∧ x = c.extractLsb' 8 4 ∧ y = c.extractLsb' 4 4 ∧ n = c.extractLsb' 0 4 := by
  conv_lhs => rw [word_eq_nibbles c]
  exact encodeXY_inj ..

/-- Bytes with equal nibbles, and only those, are equal. -/
theorem byte_eq_iff (a b : Byte) :
    a = b ↔ a.extractLsb' 4 4 = b.extractLsb' 4 4 ∧ a.extractLsb' 0 4 = b.extractLsb' 0 4 := by
  refine ⟨fun h => h ▸ ⟨rfl, rfl⟩, fun ⟨h1, h0⟩ => ?_⟩
  have e1 := fun i => congrArg (fun v => BitVec.getLsbD v i) h1
  have e0 := fun i => congrArg (fun v => BitVec.getLsbD v i) h0
  ext i hi
  interval_cases i
  · simpa using e0 0
  · simpa using e0 1
  · simpa using e0 2
  · simpa using e0 3
  · simpa using e1 0
  · simpa using e1 1
  · simpa using e1 2
  · simpa using e1 3

/-- The low byte of a word is its two low nibbles. -/
theorem encodeXY_low_byte (op x y n : BitVec 4) :
    ((encodeXY op x y n).extractLsb' 0 8).extractLsb' 4 4 = y ∧ ((encodeXY op x y n).extractLsb' 0 8).extractLsb' 0 4 = n := by
  constructor <;> (ext i hi; interval_cases i <;> simp [encodeXY, place])

theorem encodeXI_eq (op x : BitVec 4) (nn : Byte) :
    encodeXI op x nn = encodeXY op x (nn.extractLsb' 4 4) (nn.extractLsb' 0 4) := by
  ext i hi; interval_cases i <;> simp [encodeXY, encodeXI, place]

theorem encodeX_eq (op x : BitVec 4) (sub : Byte) :
    encodeX op x sub = encodeXY op x (sub.extractLsb' 4 4) (sub.extractLsb' 0 4) := encodeXI_eq op x sub

theorem encodeA_eq (op : BitVec 4) (nnn : BitVec 12) :
    encodeA op nnn = encodeXY op (nnn.extractLsb' 8 4) (nnn.extractLsb' 4 4) (nnn.extractLsb' 0 4) := by
  ext i hi; interval_cases i <;> simp [encodeXY, encodeA, place]

/-! ## The four masks of the opcode table (30_encoding.md R76) -/

theorem mask_F000 (op x y n : BitVec 4) : encodeXY op x y n &&& 0xF000#16 = encodeXY op 0 0 0 := by
  ext i hi; interval_cases i <;> simp [encodeXY, place]
theorem mask_F00F (op x y n : BitVec 4) : encodeXY op x y n &&& 0xF00F#16 = encodeXY op 0 0 n := by
  ext i hi; interval_cases i <;> simp [encodeXY, place]
theorem mask_F0FF (op x y n : BitVec 4) : encodeXY op x y n &&& 0xF0FF#16 = encodeXY op 0 y n := by
  ext i hi; interval_cases i <;> simp [encodeXY, place]
theorem mask_FFFF (op x y n : BitVec 4) : encodeXY op x y n &&& 0xFFFF#16 = encodeXY op x y n := by
  ext i hi; interval_cases i <;> simp [encodeXY, place]

/-! ## The fields (R74) -/

@[simp] theorem fieldX_encodeXY (op x y n : BitVec 4) : fieldX (encodeXY op x y n) = x := by
  ext i hi; interval_cases i <;> simp [fieldX, ArgumentSpec.field, argX, encodeXY, place]
@[simp] theorem fieldY_encodeXY (op x y n : BitVec 4) : fieldY (encodeXY op x y n) = y := by
  ext i hi; interval_cases i <;> simp [fieldY, ArgumentSpec.field, argY, encodeXY, place]
@[simp] theorem fieldN_encodeXY (op x y n : BitVec 4) : fieldN (encodeXY op x y n) = n := by
  ext i hi; interval_cases i <;> simp [fieldN, ArgumentSpec.field, argN, encodeXY, place]
@[simp] theorem fieldX_encodeXI (op x : BitVec 4) (nn : Byte) : fieldX (encodeXI op x nn) = x := by
  rw [encodeXI_eq, fieldX_encodeXY]
@[simp] theorem fieldNN_encodeXI (op x : BitVec 4) (nn : Byte) : fieldNN (encodeXI op x nn) = nn := by
  ext i hi; interval_cases i <;> simp [fieldNN, ArgumentSpec.field, argNN, encodeXI, place]
@[simp] theorem fieldX_encodeX (op x : BitVec 4) (sub : Byte) : fieldX (encodeX op x sub) = x := fieldX_encodeXI op x sub
@[simp] theorem fieldNNN_encodeA (op : BitVec 4) (nnn : BitVec 12) : fieldNNN (encodeA op nnn) = nnn := by
  ext i hi; interval_cases i <;> simp [fieldNNN, ArgumentSpec.field, argNNN, encodeA, place]

/-- Each argument of a row's instruction is what its ArgumentSpec extracts (R74). -/
theorem opcodeTable_args (d : OpcodeDescriptor) (hd : d ∈ opcodeTable) (w : Word) :
    (d.make w).args = d.args.map (·.extract w) := by
  have fld (a : ArgumentSpec) (k : Nat) (h : (a.mask >>> a.shift).toNat < 2 ^ k) : (a.field k w).toNat = a.extract w := by
    unfold ArgumentSpec.field ArgumentSpec.extract
    rw [BitVec.toNat_setWidth]
    refine Nat.mod_eq_of_lt (lt_of_le_of_lt ?_ h)
    rw [BitVec.toNat_ushiftRight, BitVec.toNat_ushiftRight, BitVec.toNat_and, Nat.shiftRight_eq_div_pow,
      Nat.shiftRight_eq_div_pow]
    exact Nat.div_le_div_right Nat.and_le_right
  have hx := fld argX 4 (by decide)
  have hy := fld argY 4 (by decide)
  have hn := fld argN 4 (by decide)
  have hnn := fld argNN 8 (by decide)
  have hnnn := fld argNNN 12 (by decide)
  simp only [opcodeTable, opcodeRows0to7, opcodeRows8to9, opcodeRowsAtoE, opcodeRowsF, List.cons_append, List.nil_append,
    List.mem_cons, List.not_mem_nil, or_false] at hd
  rcases hd with h | h | h | h | h | h | h | h | h | h | h | h | h | h | h | h | h | h | h | h | h | h | h | h | h | h | h | h | h |
    h | h | h | h | h | h <;> subst h <;>
    simp only [Instr.args, fieldX, fieldY, fieldN, fieldNN, fieldNNN, hx, hy, hn, hnn, hnnn, List.map_cons, List.map_nil]

/-! ## Byte order -/

theorem wordOfBytes_toNat (hi lo : Byte) : (wordOfBytes hi lo).toNat = hi.toNat * 256 + lo.toNat := by
  simp only [wordOfBytes, BitVec.toNat_ofNat]
  omega

theorem hiByte_toNat (w : Word) : (hiByte w).toNat = w.toNat / 256 := by
  simp only [hiByte, BitVec.extractLsb'_toNat, Nat.shiftRight_eq_div_pow]
  omega

theorem loByte_toNat (w : Word) : (loByte w).toNat = w.toNat % 256 := by
  simp only [loByte, BitVec.extractLsb'_toNat, Nat.shiftRight_zero]

/-- Storing a word's bytes and reading them back gives the word. -/
@[simp] theorem wordOfBytes_bytes (w : Word) : wordOfBytes (hiByte w) (loByte w) = w := by
  apply BitVec.eq_of_toNat_eq
  rw [wordOfBytes_toNat, hiByte_toNat, loByte_toNat]
  omega

@[simp] theorem decodeBytes_cons (hi lo : Byte) (rest : List Byte) :
    decodeBytes (hi :: lo :: rest) = .ok (decode (wordOfBytes hi lo), rest) := rfl

/-- The decoder reads a table row's word as `decode` does. -/
theorem decodeTableWord_eq (nbits w : Nat) (h : nbits ≤ 16) : decodeTableWord nbits w = some (decode (tableWord nbits w)) := by
  simp [decodeTableWord, h, bytesOfWord]

/-- A decoded word's record carries the raw word (30_encoding.md R73). -/
@[simp] theorem decodeRecord_opcode (w : Word) : (decodeRecord w).opcode = w := rfl

end Sys2Proof
end

