-- ==== Sys2Proof/Laws/Display.lean ====
section
/-! SUPPORT. What the blitter does to each pixel, and when it reports a collision (44_display.md R150, R153). -/

namespace Sys2Proof.Machine

/-- A pixel off the screen reads as not set. -/
theorem FrameBuffer.pixel_off (fb : FrameBuffer) {x y : Nat} (h : ¬ (x < 64 ∧ y < 32)) : FrameBuffer.pixel fb x y = false := by
  simp [FrameBuffer.pixel, h]

/-- The cleared display has no set pixel. -/
@[simp] theorem clearDisplay_pixel (x y : Nat) : FrameBuffer.pixel clearDisplay x y = false := by
  unfold FrameBuffer.pixel clearDisplay
  split <;> simp

/-- `DrawPixel` toggles its own on-screen pixel by the bit and no other. -/
theorem drawPixel_pixel (fb : FrameBuffer) (x y px py : Nat) (b : Bool) :
    FrameBuffer.pixel (drawPixel fb x y b).1 px py =
      (FrameBuffer.pixel fb px py ^^ (decide (px = x ∧ py = y ∧ px < 64 ∧ py < 32) && b)) := by
  unfold drawPixel
  split
  · rename_i h
    unfold FrameBuffer.pixel
    by_cases hp : px < 64 ∧ py < 32
    · simp only [hp, and_self, dite_true, Vector.getElem_set, and_true]
      by_cases hy : y = py
      · subst hy
        by_cases hx : x = px
        · subst hx
          simp
        · have hx' : ¬ px = x := fun e => hx e.symm
          simp [hx, hx']
      · have hy' : ¬ py = y := fun e => hy e.symm
        simp [hy, hy']
    · simp [hp]
  · rename_i h
    have : ¬ (px = x ∧ py = y ∧ px < 64 ∧ py < 32) := fun ⟨h1, h2, h3, h4⟩ => h ⟨h1 ▸ h3, h2 ▸ h4⟩
    simp [this]

/-- `DrawPixel` reports a collision exactly when a set pixel is cleared. -/
theorem drawPixel_hit (fb : FrameBuffer) (x y : Nat) (b : Bool) :
    (drawPixel fb x y b).2 = (FrameBuffer.pixel fb x y && b) := by
  unfold drawPixel FrameBuffer.pixel
  split <;> simp

/-- The bit the columns of a list put on a pixel of row `y`. -/
def colsBit (bx y : Nat) (row : Byte) (cs : List Nat) (px py : Nat) : Bool :=
  decide (py = y ∧ px < 64 ∧ py < 32) && cs.any fun c => decide (px = bx + c) && row.getLsbD (7 - c)

/-- Two tests that agree on a list's members have the same `any`. -/
theorem any_congr_mem {α : Type} {l : List α} {f g : α → Bool} (h : ∀ d ∈ l, f d = g d) : l.any f = l.any g := by
  induction l with
  | nil => rfl
  | cons a l ih =>
    rw [List.any_cons, List.any_cons, h a (by simp), ih fun d hd => h d (List.mem_cons_of_mem _ hd)]

/-- A row of distinct columns: each pixel is toggled by its column's bit, and the mark is set when any of them was set before. -/
theorem drawCols_spec (bx y : Nat) (row : Byte) (cs : List Nat) (hcs : cs.Nodup) (p : FrameBuffer × Bool) :
    (∀ px py, FrameBuffer.pixel (drawCols bx y row cs p).1 px py =
      (FrameBuffer.pixel p.1 px py ^^ colsBit bx y row cs px py)) ∧
    (drawCols bx y row cs p).2 = (p.2 || cs.any fun c => FrameBuffer.pixel p.1 (bx + c) y && row.getLsbD (7 - c)) := by
  induction cs generalizing p with
  | nil => exact ⟨fun px py => by simp [drawCols, colsBit], by simp [drawCols]⟩
  | cons c cs ih =>
    obtain ⟨hc, hcs⟩ := List.nodup_cons.mp hcs
    obtain ⟨ih1, ih2⟩ := ih hcs ((drawPixel p.1 (bx + c) y (row.getLsbD (7 - c))).1,
      p.2 || (drawPixel p.1 (bx + c) y (row.getLsbD (7 - c))).2)
    constructor
    · intro px py
      rw [drawCols, ih1, drawPixel_pixel]
      simp only [colsBit, List.any_cons]
      by_cases hpx : px = bx + c
      · have hno : (cs.any fun d => decide (px = bx + d) && row.getLsbD (7 - d)) = false := by
          rw [List.any_eq_false]
          intro d hd
          have : ¬ px = bx + d := fun e => hc (by have : c = d := by omega
                                                  exact this ▸ hd)
          simp [this]
        rw [hno]
        simp [hpx]
      · simp [hpx]
    · rw [drawCols, ih2, drawPixel_hit]
      simp only [List.any_cons, Bool.or_assoc]
      congr 2
      refine any_congr_mem fun d hd => ?_
      have hne : ¬ d = c := fun e => hc (e ▸ hd)
      rw [drawPixel_pixel]
      simp [hne]

/-- The columns of a sprite row put bit `7 − (px − bx)` on the eight pixels from `bx`. -/
theorem colsBit_spriteCols (bx y : Nat) (row : Byte) (px py : Nat) :
    colsBit bx y row spriteCols px py = spriteBit [row] bx y px py := by
  simp only [colsBit, spriteBit, spriteCols, List.any_cons, List.any_nil, List.length_singleton]
  by_cases hy : py = y
  · subst hy
    by_cases hs : px < 64 ∧ py < 32
    · by_cases hx : bx ≤ px ∧ px < bx + 8
      · obtain ⟨d, rfl⟩ : ∃ d, px = bx + d := ⟨px - bx, by omega⟩
        have hd : d < 8 := by omega
        interval_cases d <;> simp [hs]
      · have hne : ∀ d, d < 8 → ¬ px = bx + d := fun d hd e => hx ⟨by omega, by omega⟩
        have : ¬ (bx ≤ px ∧ px < bx + 8 ∧ py ≤ py ∧ py < py + 1 ∧ px < 64 ∧ py < 32) := fun h => hx ⟨h.1, h.2.1⟩
        rw [decide_eq_false this]
        simp only [decide_eq_false (hne 0 (by omega)), decide_eq_false (hne 1 (by omega)), decide_eq_false (hne 2 (by omega)),
          decide_eq_false (hne 3 (by omega)), decide_eq_false (hne 4 (by omega)), decide_eq_false (hne 5 (by omega)),
          decide_eq_false (hne 6 (by omega)), decide_eq_false (hne 7 (by omega)), Bool.false_and, Bool.or_false, Bool.and_false]
    · have h1 : ¬ (py = py ∧ px < 64 ∧ py < 32) := fun h => hs h.2
      have h2 : ¬ (bx ≤ px ∧ px < bx + 8 ∧ py ≤ py ∧ py < py + 1 ∧ px < 64 ∧ py < 32) := fun h => hs h.2.2.2.2
      rw [decide_eq_false h1, decide_eq_false h2]
      simp
  · have h1 : ¬ (py = y ∧ px < 64 ∧ py < 32) := fun h => hy h.1
    have h2 : ¬ (bx ≤ px ∧ px < bx + 8 ∧ y ≤ py ∧ py < y + 1 ∧ px < 64 ∧ py < 32) := fun h => hy (by omega)
    rw [decide_eq_false h1, decide_eq_false h2]
    simp

/-- The collision mark of one sprite row. -/
theorem spriteCols_hit (fb : FrameBuffer) (bx y : Nat) (row : Byte) :
    (spriteCols.any fun c => FrameBuffer.pixel fb (bx + c) y && row.getLsbD (7 - c)) = true ↔
      ∃ px py, FrameBuffer.pixel fb px py = true ∧ spriteBit [row] bx y px py = true := by
  rw [List.any_eq_true]
  constructor
  · rintro ⟨c, hc, h⟩
    rw [Bool.and_eq_true] at h
    have hc8 : c < 8 := by
      simp only [spriteCols, List.mem_cons, List.not_mem_nil, or_false] at hc
      omega
    have hon : bx + c < 64 ∧ y < 32 := by
      by_contra hno
      rw [FrameBuffer.pixel_off fb hno] at h
      exact absurd h.1 (by simp)
    refine ⟨bx + c, y, h.1, ?_⟩
    simp only [spriteBit, List.length_singleton, Bool.and_eq_true, decide_eq_true_eq]
    refine ⟨⟨by omega, by omega, by omega, by omega, hon.1, hon.2⟩, ?_⟩
    simpa using h.2
  · rintro ⟨px, py, hp, hb⟩
    simp only [spriteBit, List.length_singleton, Bool.and_eq_true, decide_eq_true_eq] at hb
    obtain ⟨⟨h1, h2, h3, h4, h5, h6⟩, hb⟩ := hb
    have hy : py = y := by omega
    subst hy
    refine ⟨px - bx, ?_, ?_⟩
    · simp only [spriteCols, List.mem_cons, List.not_mem_nil, or_false]
      omega
    · rw [Bool.and_eq_true, show bx + (px - bx) = px by omega]
      exact ⟨hp, by simpa using hb⟩

/-- A sprite's first row and the rest of it touch different pixels. -/
theorem spriteBit_cons (row : Byte) (rows : List Byte) (bx ty px py : Nat) :
    spriteBit (row :: rows) bx ty px py = (spriteBit [row] bx ty px py ^^ spriteBit rows bx (ty + 1) px py) := by
  simp only [spriteBit, List.length_cons, List.length_nil]
  by_cases hs : bx ≤ px ∧ px < bx + 8 ∧ px < 64 ∧ py < 32
  · obtain ⟨h1, h2, h3, h4⟩ := hs
    rcases lt_trichotomy py ty with h | h | h
    · have e1 : ¬ ty ≤ py := by omega
      have e2 : ¬ ty + 1 ≤ py := by omega
      simp [e1, e2]
    · subst h
      have e2 : ¬ py + 1 ≤ py := by omega
      simp [h1, h2, h3, h4]
    · obtain ⟨d, rfl⟩ : ∃ d, py = ty + 1 + d := ⟨py - ty - 1, by omega⟩
      have e1 : ¬ ty + 1 + d < ty + (0 + 1) := by omega
      have e2 : ty ≤ ty + 1 + d := by omega
      have e3 : ty + 1 ≤ ty + 1 + d := by omega
      have e4 : (ty + 1 + d < ty + (rows.length + 1)) ↔ (ty + 1 + d < ty + 1 + rows.length) := by omega
      have e5 : ty + 1 + d - ty = d + 1 := by omega
      have e6 : ty + 1 + d - (ty + 1) = d := by omega
      rw [e5, e6]
      simp only [h1, h2, h3, h4, e1, e2, e3, e4, true_and, and_true, and_false, decide_false, Bool.false_and,
        Bool.false_xor, List.getD_cons_succ]
  · have e (a b : Prop) [Decidable a] [Decidable b] :
        decide (bx ≤ px ∧ px < bx + 8 ∧ a ∧ b ∧ px < 64 ∧ py < 32) = false :=
      decide_eq_false fun h => hs ⟨h.1, h.2.1, h.2.2.2.2.1, h.2.2.2.2.2⟩
    rw [e, e, e]
    simp

/-- The rows of a sprite: each pixel is toggled by the sprite's bit there, and the mark is set when any set pixel is cleared. -/
theorem drawRows_spec (bx y : Nat) (rows : List Byte) (p : FrameBuffer × Bool) :
    (∀ px py, FrameBuffer.pixel (drawRows bx y rows p).1 px py =
      (FrameBuffer.pixel p.1 px py ^^ spriteBit rows bx y px py)) ∧
    ((drawRows bx y rows p).2 = true ↔
      p.2 = true ∨ ∃ px py, FrameBuffer.pixel p.1 px py = true ∧ spriteBit rows bx y px py = true) := by
  induction rows generalizing y p with
  | nil =>
    have h (px py : Nat) : spriteBit [] bx y px py = false := by
      simp only [spriteBit, List.length_nil, Bool.and_eq_false_iff, decide_eq_false_iff_not]
      exact .inl (by omega)
    exact ⟨fun px py => by simp [drawRows, h], by simp [drawRows, h]⟩
  | cons row rows ih =>
    obtain ⟨c1, c2⟩ := drawCols_spec bx y row spriteCols (by decide) p
    obtain ⟨ih1, ih2⟩ := ih (y + 1) (drawCols bx y row spriteCols p)
    have below (px py : Nat) (h : spriteBit rows bx (y + 1) px py = true) : spriteBit [row] bx y px py = false := by
      simp only [spriteBit, Bool.and_eq_true, decide_eq_true_eq] at h
      simp only [spriteBit, List.length_singleton, Bool.and_eq_false_iff, decide_eq_false_iff_not]
      exact .inl (by omega)
    constructor
    · intro px py
      rw [drawRows, ih1, c1, colsBit_spriteCols, spriteBit_cons row rows, Bool.xor_assoc]
    · rw [drawRows, ih2, c2, Bool.or_eq_true, spriteCols_hit, or_assoc]
      refine or_congr_right ⟨?_, ?_⟩
      · rintro (⟨px, py, h1, h2⟩ | ⟨px, py, h1, h2⟩)
        · refine ⟨px, py, h1, ?_⟩
          have : spriteBit rows bx (y + 1) px py = false := by
            by_contra hne
            rw [below px py (by simpa using hne)] at h2
            exact absurd h2 (by simp)
          rw [spriteBit_cons, h2, this]
          rfl
        · refine ⟨px, py, ?_, ?_⟩
          · rw [c1, colsBit_spriteCols, below px py h2, Bool.xor_false] at h1
            exact h1
          · rw [spriteBit_cons, h2, below px py h2]
            rfl
      · rintro ⟨px, py, h1, h2⟩
        rw [spriteBit_cons] at h2
        cases hb : spriteBit rows bx (y + 1) px py with
        | true => exact .inr ⟨px, py, by rw [c1, colsBit_spriteCols, below px py hb, Bool.xor_false]; exact h1, hb⟩
        | false => exact .inl ⟨px, py, h1, by simpa [hb] using h2⟩

/-- The whole sprite. -/
theorem drawSprite_pixel (fb : FrameBuffer) (bx ty : Nat) (rows : List Byte) (px py : Nat) :
    FrameBuffer.pixel (drawSprite fb bx ty rows).1 px py =
      (FrameBuffer.pixel fb px py ^^ spriteBit rows bx ty px py) :=
  (drawRows_spec bx ty rows (fb, false)).1 px py

theorem drawSprite_hit (fb : FrameBuffer) (bx ty : Nat) (rows : List Byte) :
    (drawSprite fb bx ty rows).2 = true ↔
      ∃ px py, FrameBuffer.pixel fb px py = true ∧ spriteBit rows bx ty px py = true := by
  have := (drawRows_spec bx ty rows (fb, false)).2
  simpa [drawSprite] using this

end Sys2Proof.Machine
end

