-- ==== Sys2Proof/Laws/Memory.lean ====
section
/-! SUPPORT. Memory: read after write, the canonical form is kept by every operation, equal memories are equal lists, and one spec
lemma for the block read and the block write. -/

namespace Sys2Proof.Machine

/-! ## Reading -/

@[simp] theorem Memory.get_nil (a : Nat) : Memory.get [] a = Memory.unlisted a := rfl

/-- An address no cell lists reads as unlisted. -/
theorem Memory.get_unlisted (m : Memory) (a : Nat) (h : ∀ c ∈ m, c.1 ≠ a) : m.get a = Memory.unlisted a := by
  induction m with
  | nil => rfl
  | cons c rest ih =>
    obtain ⟨k, b⟩ := c
    have hk : k ≠ a := h (k, b) (by simp)
    simp only [Memory.get, if_neg hk]
    exact ih fun c hc => h c (List.mem_cons_of_mem _ hc)

theorem Memory.get_consCell (a c : Nat) (b : Byte) (rest : Memory) (h : ∀ d ∈ rest, a < d.1) :
    (Memory.consCell a b rest).get c = if c = a then b else rest.get c := by
  unfold Memory.consCell
  split
  · rename_i hb
    split
    · rename_i hc
      subst hc
      rw [hb]
      exact Memory.get_unlisted rest c fun d hd => (h d hd).ne'
    · rfl
  · simp only [Memory.get, eq_comm]

/-- Read after write: the written byte at the written address, every other address as before. -/
theorem Memory.get_set (m : Memory) (hm : m.Pairwise (·.1 < ·.1)) (a c : Nat) (b : Byte) :
    (m.set a b).get c = if c = a then b else m.get c := by
  induction m with
  | nil => exact Memory.get_consCell a c b [] (by simp)
  | cons d rest ih =>
    obtain ⟨k, e⟩ := d
    obtain ⟨hk, hrest⟩ := List.pairwise_cons.mp hm
    simp only [Memory.set]
    split
    · rename_i hak
      exact Memory.get_consCell a c b _ (by
        intro d hd
        rcases List.mem_cons.mp hd with rfl | hd
        · exact hak
        · exact lt_trans hak (hk d hd))
    · split
      · rename_i hak
        subst hak
        rw [Memory.get_consCell a c b rest hk]
        by_cases hc : c = a
        · simp [hc]
        · have : ¬ a = c := fun h => hc h.symm
          simp [hc, Memory.get, this]
      · rename_i h1 h2
        simp only [Memory.get]
        by_cases hc : k = c
        · have : ¬ c = a := by omega
          simp [hc, this]
        · simp only [if_neg hc]
          exact ih hrest

/-! ## The canonical form -/

theorem Memory.mem_consCell {a : Nat} {b : Byte} {rest : Memory} {c : Host.Cell} (h : c ∈ Memory.consCell a b rest) :
    (c = (a, b) ∧ b ≠ Memory.unlisted a) ∨ c ∈ rest := by
  unfold Memory.consCell at h
  split at h
  · exact .inr h
  · rcases List.mem_cons.mp h with rfl | h
    · exact .inl ⟨rfl, ‹_›⟩
    · exact .inr h

theorem Memory.mem_set {m : Memory} {a : Nat} {b : Byte} {c : Host.Cell} (h : c ∈ m.set a b) :
    (c = (a, b) ∧ b ≠ Memory.unlisted a) ∨ c ∈ m := by
  induction m with
  | nil => exact Memory.mem_consCell h
  | cons d rest ih =>
    obtain ⟨k, e⟩ := d
    simp only [Memory.set] at h
    split at h
    · exact Memory.mem_consCell h
    · split at h
      · exact (Memory.mem_consCell h).imp_right (List.mem_cons_of_mem _)
      · rcases List.mem_cons.mp h with rfl | h
        · exact .inr (by simp)
        · exact (ih h).imp_right (List.mem_cons_of_mem _)

theorem Memory.consCell_pairwise {a : Nat} {b : Byte} {rest : Memory} (hr : rest.Pairwise (·.1 < ·.1))
    (h : ∀ d ∈ rest, a < d.1) : (Memory.consCell a b rest).Pairwise (·.1 < ·.1) := by
  unfold Memory.consCell
  split
  · exact hr
  · exact List.pairwise_cons.mpr ⟨h, hr⟩

theorem Memory.set_pairwise (m : Memory) (hm : m.Pairwise (·.1 < ·.1)) (a : Nat) (b : Byte) :
    (m.set a b).Pairwise (·.1 < ·.1) := by
  induction m with
  | nil => exact Memory.consCell_pairwise .nil (by simp)
  | cons d rest ih =>
    obtain ⟨k, e⟩ := d
    obtain ⟨hk, hrest⟩ := List.pairwise_cons.mp hm
    simp only [Memory.set]
    split
    · rename_i hak
      exact Memory.consCell_pairwise hm (by
        intro d hd
        rcases List.mem_cons.mp hd with rfl | hd
        · exact hak
        · exact lt_trans hak (hk d hd))
    · split
      · rename_i hak
        exact Memory.consCell_pairwise hrest (hak ▸ hk)
      · refine List.pairwise_cons.mpr ⟨fun d hd => ?_, ih hrest⟩
        rcases Memory.mem_set hd with ⟨rfl, -⟩ | hd
        · show k < a
          omega
        · exact hk d hd

/-- A write inside memory keeps the canonical form. -/
theorem Memory.set_wf {m : Memory} (hm : m.wf) {a : Nat} (ha : a < Config.memSize) (b : Byte) : (m.set a b).wf := by
  refine ⟨Memory.set_pairwise m hm.1 a b, fun c hc => ?_⟩
  rcases Memory.mem_set hc with ⟨rfl, hb⟩ | hc
  · exact ⟨ha, hb⟩
  · exact hm.2 c hc

/-- The empty memory, that of reset, is in the canonical form. -/
theorem Memory.nil_wf : Memory.wf [] := ⟨.nil, by simp⟩

/-- Memories in the canonical form that read alike are the same list. -/
theorem Memory.ext_get {m n : Memory} (hm : m.wf) (hn : n.wf) (h : ∀ a, m.get a = n.get a) : m = n := by
  induction m generalizing n with
  | nil =>
    cases n with
    | nil => rfl
    | cons d rest =>
      have := h d.1
      simp only [Memory.get, ↓reduceIte] at this
      exact absurd this.symm (hn.2 d (by simp)).2
  | cons c rest ih =>
    obtain ⟨k, b⟩ := c
    obtain ⟨hk, hrest⟩ := List.pairwise_cons.mp hm.1
    have hkb : b ≠ Memory.unlisted k := (hm.2 (k, b) (by simp)).2
    cases n with
    | nil =>
      have := h k
      simp only [Memory.get, ↓reduceIte] at this
      exact absurd this hkb
    | cons d rest' =>
      obtain ⟨k', b'⟩ := d
      obtain ⟨hk', hrest'⟩ := List.pairwise_cons.mp hn.1
      have hkb' : b' ≠ Memory.unlisted k' := (hn.2 (k', b') (by simp)).2
      have hle : k = k' := by
        rcases lt_trichotomy k k' with hlt | heq | hgt
        · have := h k
          simp only [Memory.get, ↓reduceIte, if_neg hlt.ne'] at this
          rw [Memory.get_unlisted rest' k fun d hd => (lt_trans hlt (hk' d hd)).ne'] at this
          exact absurd this hkb
        · exact heq
        · have := h k'
          simp only [Memory.get, ↓reduceIte, if_neg hgt.ne'] at this
          rw [Memory.get_unlisted rest k' fun d hd => (lt_trans hgt (hk d hd)).ne'] at this
          exact absurd this.symm hkb'
      subst hle
      have hb : b = b' := by simpa [Memory.get] using h k
      subst hb
      congr 1
      refine ih ⟨hrest, fun c hc => hm.2 c (List.mem_cons_of_mem _ hc)⟩
        ⟨hrest', fun c hc => hn.2 c (List.mem_cons_of_mem _ hc)⟩ fun a => ?_
      by_cases ha : k = a
      · subst ha
        rw [Memory.get_unlisted rest k fun d hd => (hk d hd).ne', Memory.get_unlisted rest' k fun d hd => (hk' d hd).ne']
      · simpa [Memory.get, ha] using h a

/-! ## Blocks of bytes -/

@[simp] theorem Memory.readBytes_length (m : Memory) (base n : Nat) : (m.readBytes base n).length = n := by
  simp [Memory.readBytes]

@[simp] theorem Memory.readBytes_getElem (m : Memory) (base n k : Nat) (h : k < (m.readBytes base n).length) :
    (m.readBytes base n)[k] = m.get (base + k) := by
  simp [Memory.readBytes]

theorem Memory.writeBytes_pairwise (bs : List Byte) (m : Memory) (hm : m.Pairwise (·.1 < ·.1)) (base : Nat) :
    (m.writeBytes base bs).Pairwise (·.1 < ·.1) := by
  induction bs generalizing m base with
  | nil => exact hm
  | cons b rest ih => exact ih _ (Memory.set_pairwise m hm base b) (base + 1)

/-- A block write inside memory keeps the canonical form. -/
theorem Memory.writeBytes_wf (bs : List Byte) {m : Memory} (hm : m.wf) {base : Nat} (h : base + bs.length ≤ Config.memSize) :
    (m.writeBytes base bs).wf := by
  induction bs generalizing m base with
  | nil => exact hm
  | cons b rest ih =>
    simp only [List.length_cons] at h
    exact ih (Memory.set_wf hm (by omega) b) (by omega)

/-- Outside the block, a block write leaves every byte as it was. -/
theorem Memory.get_writeBytes_outside (bs : List Byte) (m : Memory) (hm : m.Pairwise (·.1 < ·.1)) (base c : Nat)
    (h : c < base ∨ base + bs.length ≤ c) : (m.writeBytes base bs).get c = m.get c := by
  induction bs generalizing m base with
  | nil => rfl
  | cons b rest ih =>
    simp only [List.length_cons] at h
    rw [Memory.writeBytes, ih _ (Memory.set_pairwise m hm base b) (base + 1) (by omega), Memory.get_set m hm, if_neg (by omega)]

/-- Inside the block, each byte is the one written there. -/
theorem Memory.get_writeBytes_inside (bs : List Byte) (m : Memory) (hm : m.Pairwise (·.1 < ·.1)) (base k : Nat)
    (h : k < bs.length) : (m.writeBytes base bs).get (base + k) = bs[k] := by
  induction bs generalizing m base k with
  | nil => exact absurd h (by simp)
  | cons b rest ih =>
    rw [Memory.writeBytes]
    cases k with
    | zero =>
      rw [Memory.get_writeBytes_outside rest _ (Memory.set_pairwise m hm base b) _ _ (by omega), Memory.get_set m hm]
      simp
    | succ k =>
      have := ih (m.set base b) (Memory.set_pairwise m hm base b) (base + 1) k (by simpa using h)
      rw [show base + (k + 1) = base + 1 + k by omega, this]
      simp

/-! ## The checked accesses (20_memory.md R51 to R53) -/

/-- When an access has an address outside memory, and which (60_exceptions.md R201). -/
theorem firstOutside_eq_none {base n : Nat} : firstOutside base n = none ↔ n = 0 ∨ base + n ≤ Config.memSize := by
  unfold firstOutside; split <;> simp_all

theorem firstOutside_eq_some {base n a : Nat} :
    firstOutside base n = some a ↔ 0 < n ∧ Config.memSize < base + n ∧ a = max base Config.memSize := by
  unfold firstOutside
  split
  · rename_i h
    refine ⟨fun h' => (by simp at h'), fun ⟨h1, h2, _⟩ => ?_⟩
    omega
  · rename_i h
    simp only [Option.some.injEq]
    refine ⟨fun h' => ⟨by omega, by omega, h'.symm⟩, fun ⟨_, _, h'⟩ => h'.symm⟩

/-- Everything a block read can do. -/
theorem memReadN_cases (m : Memory) (base n : Nat) :
    ((n = 0 ∨ base + n ≤ Config.memSize) ∧ memReadN m base n = .ok (m.readBytes base n)) ∨
    ((0 < n ∧ Config.memSize < base + n) ∧ memReadN m base n = .error (max base Config.memSize)) := by
  unfold memReadN firstOutside
  by_cases h : n = 0 ∨ base + n ≤ Config.memSize
  · exact .inl ⟨h, by simp [h]⟩
  · exact .inr ⟨by omega, by simp [h]⟩

/-- Everything a block write can do. -/
theorem memWriteN_cases (m : Memory) (base : Nat) (bs : List Byte) :
    ((bs.length = 0 ∨ base + bs.length ≤ Config.memSize) ∧ memWriteN m base bs = .ok (m.writeBytes base bs)) ∨
    ((0 < bs.length ∧ Config.memSize < base + bs.length) ∧ memWriteN m base bs = .error (max base Config.memSize)) := by
  unfold memWriteN firstOutside
  by_cases h : bs.length = 0 ∨ base + bs.length ≤ Config.memSize
  · exact .inl ⟨h, by simp only [if_pos h]⟩
  · exact .inr ⟨by omega, by simp only [if_neg h]⟩

/-- A block write that succeeds keeps the canonical form. -/
theorem memWriteN_wf {m m' : Memory} {base : Nat} {bs : List Byte} (hm : m.wf) (h : memWriteN m base bs = .ok m') : m'.wf := by
  rcases memWriteN_cases m base bs with ⟨hr, he⟩ | ⟨_, he⟩
  · rw [he] at h
    cases h
    rcases hr with hr | hr
    · rw [List.length_eq_zero_iff.mp hr]
      exact hm
    · exact Memory.writeBytes_wf bs hm hr
  · rw [he] at h
    cases h

/-- The single-byte read and write are the block read and write of one byte. -/
theorem memReadN_one (m : Memory) (a : Nat) : memReadN m a 1 = (memRead1 m a).map fun b => [b] := by
  unfold memReadN firstOutside memRead1
  by_cases h : a < Config.memSize
  · have : a + 1 ≤ Config.memSize := h
    simp [h, this, Memory.readBytes, Except.map]
  · have h' : ¬ a + 1 ≤ Config.memSize := h
    have : max a Config.memSize = a := by omega
    simp [h, h', this, Except.map]

theorem memWriteN_one (m : Memory) (a : Nat) (b : Byte) : memWriteN m a [b] = memWrite1 m a b := by
  unfold memWriteN firstOutside memWrite1
  by_cases h : a < Config.memSize
  · have : a + 1 ≤ Config.memSize := h
    simp [h, this, Memory.writeBytes]
  · have h' : ¬ a + 1 ≤ Config.memSize := h
    have : max a Config.memSize = a := by omega
    simp [h, h', this]

/-- Everything the two-byte read can do (R52): the big-endian word, or the lowest address outside memory. -/
theorem memRead2_cases (m : Memory) (a : Nat) :
    (a + 2 ≤ Config.memSize ∧ memRead2 m a = .ok (wordOfBytes (m.get a) (m.get (a + 1)))) ∨
    (Config.memSize < a + 2 ∧ memRead2 m a = .error (max a Config.memSize)) := by
  unfold memRead2 memRead1
  by_cases h : a + 2 ≤ Config.memSize
  · have h0 : a < Config.memSize := by omega
    have h1 : a + 1 < Config.memSize := by omega
    exact .inl ⟨h, by simp [h0, h1]⟩
  · refine .inr ⟨by omega, ?_⟩
    by_cases h0 : a < Config.memSize
    · have h1 : ¬ a + 1 < Config.memSize := by omega
      have : max a Config.memSize = a + 1 := by omega
      simp [h0, h1, this]
    · have : max a Config.memSize = a := by omega
      simp [h0, this]

/-- The reset image is in the canonical form when `ROM` fits (20_memory.md R55). -/
theorem ResetImage.memory_wf (image : ResetImage) (h : image.rom.length ≤ Config.romMax) : image.memory.wf := by
  unfold ResetImage.memory
  refine Memory.writeBytes_wf _ (Memory.writeBytes_wf _ Memory.nil_wf ?_) ?_
  · simp [Config.memSize]
  · simp only [Config.romMax] at h
    simp only [Config.romBase, Config.memSize]
    omega

end Sys2Proof.Machine
end

