-- ==== Sys2Proof/Laws/State.lean ====
section
/-! SUPPORT. One lemma per field per update of State, so that no later proof unfolds a record update. -/

namespace Sys2Proof.Machine

variable (s : State)

/-! ## `State.setReg` -/

@[simp] theorem State.setReg_v (x : RegIdx) (b : Byte) : (s.setReg x b).v = s.v.set x.toNat b (regIdx_lt x) := rfl
@[simp] theorem State.setReg_pc (x : RegIdx) (b : Byte) : (s.setReg x b).pc = s.pc := rfl
@[simp] theorem State.setReg_index (x : RegIdx) (b : Byte) : (s.setReg x b).index = s.index := rfl
@[simp] theorem State.setReg_stack (x : RegIdx) (b : Byte) : (s.setReg x b).stack = s.stack := rfl
@[simp] theorem State.setReg_sp (x : RegIdx) (b : Byte) : (s.setReg x b).sp = s.sp := rfl
@[simp] theorem State.setReg_dt (x : RegIdx) (b : Byte) : (s.setReg x b).dt = s.dt := rfl
@[simp] theorem State.setReg_st (x : RegIdx) (b : Byte) : (s.setReg x b).st = s.st := rfl
@[simp] theorem State.setReg_mem (x : RegIdx) (b : Byte) : (s.setReg x b).mem = s.mem := rfl
@[simp] theorem State.setReg_fb (x : RegIdx) (b : Byte) : (s.setReg x b).fb = s.fb := rfl
@[simp] theorem State.setReg_keys (x : RegIdx) (b : Byte) : (s.setReg x b).keys = s.keys := rfl
@[simp] theorem State.setReg_klatch (x : RegIdx) (b : Byte) : (s.setReg x b).klatch = s.klatch := rfl
@[simp] theorem State.setReg_faultReg (x : RegIdx) (b : Byte) : (s.setReg x b).faultReg = s.faultReg := rfl
@[simp] theorem State.setReg_run (x : RegIdx) (b : Byte) : (s.setReg x b).run = s.run := rfl
@[simp] theorem State.setReg_events (x : RegIdx) (b : Byte) : (s.setReg x b).events = s.events := rfl
@[simp] theorem State.setReg_eventTail (x : RegIdx) (b : Byte) : (s.setReg x b).eventTail = s.eventTail := rfl
@[simp] theorem State.setReg_randQueue (x : RegIdx) (b : Byte) : (s.setReg x b).randQueue = s.randQueue := rfl
@[simp] theorem State.setReg_randDraws (x : RegIdx) (b : Byte) : (s.setReg x b).randDraws = s.randDraws := rfl

/-! ## `State.setFlagThenReg` -/

@[simp] theorem State.setFlagThenReg_pc (f : Byte) (x : RegIdx) (b : Byte) : (s.setFlagThenReg f x b).pc = s.pc := rfl
@[simp] theorem State.setFlagThenReg_index (f : Byte) (x : RegIdx) (b : Byte) : (s.setFlagThenReg f x b).index = s.index := rfl
@[simp] theorem State.setFlagThenReg_stack (f : Byte) (x : RegIdx) (b : Byte) : (s.setFlagThenReg f x b).stack = s.stack := rfl
@[simp] theorem State.setFlagThenReg_sp (f : Byte) (x : RegIdx) (b : Byte) : (s.setFlagThenReg f x b).sp = s.sp := rfl
@[simp] theorem State.setFlagThenReg_dt (f : Byte) (x : RegIdx) (b : Byte) : (s.setFlagThenReg f x b).dt = s.dt := rfl
@[simp] theorem State.setFlagThenReg_st (f : Byte) (x : RegIdx) (b : Byte) : (s.setFlagThenReg f x b).st = s.st := rfl
@[simp] theorem State.setFlagThenReg_mem (f : Byte) (x : RegIdx) (b : Byte) : (s.setFlagThenReg f x b).mem = s.mem := rfl
@[simp] theorem State.setFlagThenReg_fb (f : Byte) (x : RegIdx) (b : Byte) : (s.setFlagThenReg f x b).fb = s.fb := rfl
@[simp] theorem State.setFlagThenReg_keys (f : Byte) (x : RegIdx) (b : Byte) : (s.setFlagThenReg f x b).keys = s.keys := rfl
@[simp] theorem State.setFlagThenReg_klatch (f : Byte) (x : RegIdx) (b : Byte) : (s.setFlagThenReg f x b).klatch = s.klatch := rfl
@[simp] theorem State.setFlagThenReg_faultReg (f : Byte) (x : RegIdx) (b : Byte) : (s.setFlagThenReg f x b).faultReg = s.faultReg := rfl
@[simp] theorem State.setFlagThenReg_run (f : Byte) (x : RegIdx) (b : Byte) : (s.setFlagThenReg f x b).run = s.run := rfl
@[simp] theorem State.setFlagThenReg_events (f : Byte) (x : RegIdx) (b : Byte) : (s.setFlagThenReg f x b).events = s.events := rfl
@[simp] theorem State.setFlagThenReg_eventTail (f : Byte) (x : RegIdx) (b : Byte) : (s.setFlagThenReg f x b).eventTail = s.eventTail := rfl
@[simp] theorem State.setFlagThenReg_randQueue (f : Byte) (x : RegIdx) (b : Byte) : (s.setFlagThenReg f x b).randQueue = s.randQueue := rfl
@[simp] theorem State.setFlagThenReg_randDraws (f : Byte) (x : RegIdx) (b : Byte) : (s.setFlagThenReg f x b).randDraws = s.randDraws := rfl

/-! ## `State.setRegs` -/

@[simp] theorem State.setRegs_v (w : RegFile) : (s.setRegs w).v = w := rfl
@[simp] theorem State.setRegs_pc (w : RegFile) : (s.setRegs w).pc = s.pc := rfl
@[simp] theorem State.setRegs_index (w : RegFile) : (s.setRegs w).index = s.index := rfl
@[simp] theorem State.setRegs_stack (w : RegFile) : (s.setRegs w).stack = s.stack := rfl
@[simp] theorem State.setRegs_sp (w : RegFile) : (s.setRegs w).sp = s.sp := rfl
@[simp] theorem State.setRegs_dt (w : RegFile) : (s.setRegs w).dt = s.dt := rfl
@[simp] theorem State.setRegs_st (w : RegFile) : (s.setRegs w).st = s.st := rfl
@[simp] theorem State.setRegs_mem (w : RegFile) : (s.setRegs w).mem = s.mem := rfl
@[simp] theorem State.setRegs_fb (w : RegFile) : (s.setRegs w).fb = s.fb := rfl
@[simp] theorem State.setRegs_keys (w : RegFile) : (s.setRegs w).keys = s.keys := rfl
@[simp] theorem State.setRegs_klatch (w : RegFile) : (s.setRegs w).klatch = s.klatch := rfl
@[simp] theorem State.setRegs_faultReg (w : RegFile) : (s.setRegs w).faultReg = s.faultReg := rfl
@[simp] theorem State.setRegs_run (w : RegFile) : (s.setRegs w).run = s.run := rfl
@[simp] theorem State.setRegs_events (w : RegFile) : (s.setRegs w).events = s.events := rfl
@[simp] theorem State.setRegs_eventTail (w : RegFile) : (s.setRegs w).eventTail = s.eventTail := rfl
@[simp] theorem State.setRegs_randQueue (w : RegFile) : (s.setRegs w).randQueue = s.randQueue := rfl
@[simp] theorem State.setRegs_randDraws (w : RegFile) : (s.setRegs w).randDraws = s.randDraws := rfl

/-! ## `State.setIndex` -/

@[simp] theorem State.setIndex_v (w : Word) : (s.setIndex w).v = s.v := rfl
@[simp] theorem State.setIndex_pc (w : Word) : (s.setIndex w).pc = s.pc := rfl
@[simp] theorem State.setIndex_index (w : Word) : (s.setIndex w).index = w := rfl
@[simp] theorem State.setIndex_stack (w : Word) : (s.setIndex w).stack = s.stack := rfl
@[simp] theorem State.setIndex_sp (w : Word) : (s.setIndex w).sp = s.sp := rfl
@[simp] theorem State.setIndex_dt (w : Word) : (s.setIndex w).dt = s.dt := rfl
@[simp] theorem State.setIndex_st (w : Word) : (s.setIndex w).st = s.st := rfl
@[simp] theorem State.setIndex_mem (w : Word) : (s.setIndex w).mem = s.mem := rfl
@[simp] theorem State.setIndex_fb (w : Word) : (s.setIndex w).fb = s.fb := rfl
@[simp] theorem State.setIndex_keys (w : Word) : (s.setIndex w).keys = s.keys := rfl
@[simp] theorem State.setIndex_klatch (w : Word) : (s.setIndex w).klatch = s.klatch := rfl
@[simp] theorem State.setIndex_faultReg (w : Word) : (s.setIndex w).faultReg = s.faultReg := rfl
@[simp] theorem State.setIndex_run (w : Word) : (s.setIndex w).run = s.run := rfl
@[simp] theorem State.setIndex_events (w : Word) : (s.setIndex w).events = s.events := rfl
@[simp] theorem State.setIndex_eventTail (w : Word) : (s.setIndex w).eventTail = s.eventTail := rfl
@[simp] theorem State.setIndex_randQueue (w : Word) : (s.setIndex w).randQueue = s.randQueue := rfl
@[simp] theorem State.setIndex_randDraws (w : Word) : (s.setIndex w).randDraws = s.randDraws := rfl

/-! ## `State.setDt` -/

@[simp] theorem State.setDt_v (b : Byte) : (s.setDt b).v = s.v := rfl
@[simp] theorem State.setDt_pc (b : Byte) : (s.setDt b).pc = s.pc := rfl
@[simp] theorem State.setDt_index (b : Byte) : (s.setDt b).index = s.index := rfl
@[simp] theorem State.setDt_stack (b : Byte) : (s.setDt b).stack = s.stack := rfl
@[simp] theorem State.setDt_sp (b : Byte) : (s.setDt b).sp = s.sp := rfl
@[simp] theorem State.setDt_dt (b : Byte) : (s.setDt b).dt = b := rfl
@[simp] theorem State.setDt_st (b : Byte) : (s.setDt b).st = s.st := rfl
@[simp] theorem State.setDt_mem (b : Byte) : (s.setDt b).mem = s.mem := rfl
@[simp] theorem State.setDt_fb (b : Byte) : (s.setDt b).fb = s.fb := rfl
@[simp] theorem State.setDt_keys (b : Byte) : (s.setDt b).keys = s.keys := rfl
@[simp] theorem State.setDt_klatch (b : Byte) : (s.setDt b).klatch = s.klatch := rfl
@[simp] theorem State.setDt_faultReg (b : Byte) : (s.setDt b).faultReg = s.faultReg := rfl
@[simp] theorem State.setDt_run (b : Byte) : (s.setDt b).run = s.run := rfl
@[simp] theorem State.setDt_events (b : Byte) : (s.setDt b).events = s.events := rfl
@[simp] theorem State.setDt_eventTail (b : Byte) : (s.setDt b).eventTail = s.eventTail := rfl
@[simp] theorem State.setDt_randQueue (b : Byte) : (s.setDt b).randQueue = s.randQueue := rfl
@[simp] theorem State.setDt_randDraws (b : Byte) : (s.setDt b).randDraws = s.randDraws := rfl

/-! ## `State.setSt` -/

@[simp] theorem State.setSt_v (b : Byte) : (s.setSt b).v = s.v := rfl
@[simp] theorem State.setSt_pc (b : Byte) : (s.setSt b).pc = s.pc := rfl
@[simp] theorem State.setSt_index (b : Byte) : (s.setSt b).index = s.index := rfl
@[simp] theorem State.setSt_stack (b : Byte) : (s.setSt b).stack = s.stack := rfl
@[simp] theorem State.setSt_sp (b : Byte) : (s.setSt b).sp = s.sp := rfl
@[simp] theorem State.setSt_dt (b : Byte) : (s.setSt b).dt = s.dt := rfl
@[simp] theorem State.setSt_st (b : Byte) : (s.setSt b).st = b := rfl
@[simp] theorem State.setSt_mem (b : Byte) : (s.setSt b).mem = s.mem := rfl
@[simp] theorem State.setSt_fb (b : Byte) : (s.setSt b).fb = s.fb := rfl
@[simp] theorem State.setSt_keys (b : Byte) : (s.setSt b).keys = s.keys := rfl
@[simp] theorem State.setSt_klatch (b : Byte) : (s.setSt b).klatch = s.klatch := rfl
@[simp] theorem State.setSt_faultReg (b : Byte) : (s.setSt b).faultReg = s.faultReg := rfl
@[simp] theorem State.setSt_run (b : Byte) : (s.setSt b).run = s.run := rfl
@[simp] theorem State.setSt_events (b : Byte) : (s.setSt b).events = s.events := rfl
@[simp] theorem State.setSt_eventTail (b : Byte) : (s.setSt b).eventTail = s.eventTail := rfl
@[simp] theorem State.setSt_randQueue (b : Byte) : (s.setSt b).randQueue = s.randQueue := rfl
@[simp] theorem State.setSt_randDraws (b : Byte) : (s.setSt b).randDraws = s.randDraws := rfl

/-! ## `State.setMem` -/

@[simp] theorem State.setMem_v (m : Memory) : (s.setMem m).v = s.v := rfl
@[simp] theorem State.setMem_pc (m : Memory) : (s.setMem m).pc = s.pc := rfl
@[simp] theorem State.setMem_index (m : Memory) : (s.setMem m).index = s.index := rfl
@[simp] theorem State.setMem_stack (m : Memory) : (s.setMem m).stack = s.stack := rfl
@[simp] theorem State.setMem_sp (m : Memory) : (s.setMem m).sp = s.sp := rfl
@[simp] theorem State.setMem_dt (m : Memory) : (s.setMem m).dt = s.dt := rfl
@[simp] theorem State.setMem_st (m : Memory) : (s.setMem m).st = s.st := rfl
@[simp] theorem State.setMem_mem (m : Memory) : (s.setMem m).mem = m := rfl
@[simp] theorem State.setMem_fb (m : Memory) : (s.setMem m).fb = s.fb := rfl
@[simp] theorem State.setMem_keys (m : Memory) : (s.setMem m).keys = s.keys := rfl
@[simp] theorem State.setMem_klatch (m : Memory) : (s.setMem m).klatch = s.klatch := rfl
@[simp] theorem State.setMem_faultReg (m : Memory) : (s.setMem m).faultReg = s.faultReg := rfl
@[simp] theorem State.setMem_run (m : Memory) : (s.setMem m).run = s.run := rfl
@[simp] theorem State.setMem_events (m : Memory) : (s.setMem m).events = s.events := rfl
@[simp] theorem State.setMem_eventTail (m : Memory) : (s.setMem m).eventTail = s.eventTail := rfl
@[simp] theorem State.setMem_randQueue (m : Memory) : (s.setMem m).randQueue = s.randQueue := rfl
@[simp] theorem State.setMem_randDraws (m : Memory) : (s.setMem m).randDraws = s.randDraws := rfl

/-! ## `State.setFb` -/

@[simp] theorem State.setFb_v (f : FrameBuffer) : (s.setFb f).v = s.v := rfl
@[simp] theorem State.setFb_pc (f : FrameBuffer) : (s.setFb f).pc = s.pc := rfl
@[simp] theorem State.setFb_index (f : FrameBuffer) : (s.setFb f).index = s.index := rfl
@[simp] theorem State.setFb_stack (f : FrameBuffer) : (s.setFb f).stack = s.stack := rfl
@[simp] theorem State.setFb_sp (f : FrameBuffer) : (s.setFb f).sp = s.sp := rfl
@[simp] theorem State.setFb_dt (f : FrameBuffer) : (s.setFb f).dt = s.dt := rfl
@[simp] theorem State.setFb_st (f : FrameBuffer) : (s.setFb f).st = s.st := rfl
@[simp] theorem State.setFb_mem (f : FrameBuffer) : (s.setFb f).mem = s.mem := rfl
@[simp] theorem State.setFb_fb (f : FrameBuffer) : (s.setFb f).fb = f := rfl
@[simp] theorem State.setFb_keys (f : FrameBuffer) : (s.setFb f).keys = s.keys := rfl
@[simp] theorem State.setFb_klatch (f : FrameBuffer) : (s.setFb f).klatch = s.klatch := rfl
@[simp] theorem State.setFb_faultReg (f : FrameBuffer) : (s.setFb f).faultReg = s.faultReg := rfl
@[simp] theorem State.setFb_run (f : FrameBuffer) : (s.setFb f).run = s.run := rfl
@[simp] theorem State.setFb_events (f : FrameBuffer) : (s.setFb f).events = s.events := rfl
@[simp] theorem State.setFb_eventTail (f : FrameBuffer) : (s.setFb f).eventTail = s.eventTail := rfl
@[simp] theorem State.setFb_randQueue (f : FrameBuffer) : (s.setFb f).randQueue = s.randQueue := rfl
@[simp] theorem State.setFb_randDraws (f : FrameBuffer) : (s.setFb f).randDraws = s.randDraws := rfl

/-! ## `State.setFault` -/

@[simp] theorem State.setFault_v (f : FaultReg) : (s.setFault f).v = s.v := rfl
@[simp] theorem State.setFault_pc (f : FaultReg) : (s.setFault f).pc = s.pc := rfl
@[simp] theorem State.setFault_index (f : FaultReg) : (s.setFault f).index = s.index := rfl
@[simp] theorem State.setFault_stack (f : FaultReg) : (s.setFault f).stack = s.stack := rfl
@[simp] theorem State.setFault_sp (f : FaultReg) : (s.setFault f).sp = s.sp := rfl
@[simp] theorem State.setFault_dt (f : FaultReg) : (s.setFault f).dt = s.dt := rfl
@[simp] theorem State.setFault_st (f : FaultReg) : (s.setFault f).st = s.st := rfl
@[simp] theorem State.setFault_mem (f : FaultReg) : (s.setFault f).mem = s.mem := rfl
@[simp] theorem State.setFault_fb (f : FaultReg) : (s.setFault f).fb = s.fb := rfl
@[simp] theorem State.setFault_keys (f : FaultReg) : (s.setFault f).keys = s.keys := rfl
@[simp] theorem State.setFault_klatch (f : FaultReg) : (s.setFault f).klatch = s.klatch := rfl
@[simp] theorem State.setFault_faultReg (f : FaultReg) : (s.setFault f).faultReg = f := rfl
@[simp] theorem State.setFault_run (f : FaultReg) : (s.setFault f).run = s.run := rfl
@[simp] theorem State.setFault_events (f : FaultReg) : (s.setFault f).events = s.events := rfl
@[simp] theorem State.setFault_eventTail (f : FaultReg) : (s.setFault f).eventTail = s.eventTail := rfl
@[simp] theorem State.setFault_randQueue (f : FaultReg) : (s.setFault f).randQueue = s.randQueue := rfl
@[simp] theorem State.setFault_randDraws (f : FaultReg) : (s.setFault f).randDraws = s.randDraws := rfl

/-! ## `State.setSchedule` -/

@[simp] theorem State.setSchedule_v (es : List Event) (tl : EventTail) : (s.setSchedule es tl).v = s.v := rfl
@[simp] theorem State.setSchedule_pc (es : List Event) (tl : EventTail) : (s.setSchedule es tl).pc = s.pc := rfl
@[simp] theorem State.setSchedule_index (es : List Event) (tl : EventTail) : (s.setSchedule es tl).index = s.index := rfl
@[simp] theorem State.setSchedule_stack (es : List Event) (tl : EventTail) : (s.setSchedule es tl).stack = s.stack := rfl
@[simp] theorem State.setSchedule_sp (es : List Event) (tl : EventTail) : (s.setSchedule es tl).sp = s.sp := rfl
@[simp] theorem State.setSchedule_dt (es : List Event) (tl : EventTail) : (s.setSchedule es tl).dt = s.dt := rfl
@[simp] theorem State.setSchedule_st (es : List Event) (tl : EventTail) : (s.setSchedule es tl).st = s.st := rfl
@[simp] theorem State.setSchedule_mem (es : List Event) (tl : EventTail) : (s.setSchedule es tl).mem = s.mem := rfl
@[simp] theorem State.setSchedule_fb (es : List Event) (tl : EventTail) : (s.setSchedule es tl).fb = s.fb := rfl
@[simp] theorem State.setSchedule_keys (es : List Event) (tl : EventTail) : (s.setSchedule es tl).keys = s.keys := rfl
@[simp] theorem State.setSchedule_klatch (es : List Event) (tl : EventTail) : (s.setSchedule es tl).klatch = s.klatch := rfl
@[simp] theorem State.setSchedule_faultReg (es : List Event) (tl : EventTail) : (s.setSchedule es tl).faultReg = s.faultReg := rfl
@[simp] theorem State.setSchedule_run (es : List Event) (tl : EventTail) : (s.setSchedule es tl).run = s.run := rfl
@[simp] theorem State.setSchedule_events (es : List Event) (tl : EventTail) : (s.setSchedule es tl).events = es := rfl
@[simp] theorem State.setSchedule_eventTail (es : List Event) (tl : EventTail) : (s.setSchedule es tl).eventTail = tl := rfl
@[simp] theorem State.setSchedule_randQueue (es : List Event) (tl : EventTail) : (s.setSchedule es tl).randQueue = s.randQueue := rfl
@[simp] theorem State.setSchedule_randDraws (es : List Event) (tl : EventTail) : (s.setSchedule es tl).randDraws = s.randDraws := rfl

/-! ## `State.advance` -/

@[simp] theorem State.advance_v : (s.advance).v = s.v := rfl
@[simp] theorem State.advance_pc : (s.advance).pc = s.pc + 2 := rfl
@[simp] theorem State.advance_index : (s.advance).index = s.index := rfl
@[simp] theorem State.advance_stack : (s.advance).stack = s.stack := rfl
@[simp] theorem State.advance_sp : (s.advance).sp = s.sp := rfl
@[simp] theorem State.advance_dt : (s.advance).dt = s.dt := rfl
@[simp] theorem State.advance_st : (s.advance).st = s.st := rfl
@[simp] theorem State.advance_mem : (s.advance).mem = s.mem := rfl
@[simp] theorem State.advance_fb : (s.advance).fb = s.fb := rfl
@[simp] theorem State.advance_keys : (s.advance).keys = s.keys := rfl
@[simp] theorem State.advance_klatch : (s.advance).klatch = s.klatch := rfl
@[simp] theorem State.advance_faultReg : (s.advance).faultReg = s.faultReg := rfl
@[simp] theorem State.advance_run : (s.advance).run = s.run := rfl
@[simp] theorem State.advance_events : (s.advance).events = s.events := rfl
@[simp] theorem State.advance_eventTail : (s.advance).eventTail = s.eventTail := rfl
@[simp] theorem State.advance_randQueue : (s.advance).randQueue = s.randQueue := rfl
@[simp] theorem State.advance_randDraws : (s.advance).randDraws = s.randDraws := rfl

/-! ## `State.skipNext` -/

@[simp] theorem State.skipNext_v : (s.skipNext).v = s.v := rfl
@[simp] theorem State.skipNext_pc : (s.skipNext).pc = s.pc + 4 := rfl
@[simp] theorem State.skipNext_index : (s.skipNext).index = s.index := rfl
@[simp] theorem State.skipNext_stack : (s.skipNext).stack = s.stack := rfl
@[simp] theorem State.skipNext_sp : (s.skipNext).sp = s.sp := rfl
@[simp] theorem State.skipNext_dt : (s.skipNext).dt = s.dt := rfl
@[simp] theorem State.skipNext_st : (s.skipNext).st = s.st := rfl
@[simp] theorem State.skipNext_mem : (s.skipNext).mem = s.mem := rfl
@[simp] theorem State.skipNext_fb : (s.skipNext).fb = s.fb := rfl
@[simp] theorem State.skipNext_keys : (s.skipNext).keys = s.keys := rfl
@[simp] theorem State.skipNext_klatch : (s.skipNext).klatch = s.klatch := rfl
@[simp] theorem State.skipNext_faultReg : (s.skipNext).faultReg = s.faultReg := rfl
@[simp] theorem State.skipNext_run : (s.skipNext).run = s.run := rfl
@[simp] theorem State.skipNext_events : (s.skipNext).events = s.events := rfl
@[simp] theorem State.skipNext_eventTail : (s.skipNext).eventTail = s.eventTail := rfl
@[simp] theorem State.skipNext_randQueue : (s.skipNext).randQueue = s.randQueue := rfl
@[simp] theorem State.skipNext_randDraws : (s.skipNext).randDraws = s.randDraws := rfl

/-! ## `State.jump` -/

@[simp] theorem State.jump_v (t : Word) : (s.jump t).v = s.v := rfl
@[simp] theorem State.jump_pc (t : Word) : (s.jump t).pc = t := rfl
@[simp] theorem State.jump_index (t : Word) : (s.jump t).index = s.index := rfl
@[simp] theorem State.jump_stack (t : Word) : (s.jump t).stack = s.stack := rfl
@[simp] theorem State.jump_sp (t : Word) : (s.jump t).sp = s.sp := rfl
@[simp] theorem State.jump_dt (t : Word) : (s.jump t).dt = s.dt := rfl
@[simp] theorem State.jump_st (t : Word) : (s.jump t).st = s.st := rfl
@[simp] theorem State.jump_mem (t : Word) : (s.jump t).mem = s.mem := rfl
@[simp] theorem State.jump_fb (t : Word) : (s.jump t).fb = s.fb := rfl
@[simp] theorem State.jump_keys (t : Word) : (s.jump t).keys = s.keys := rfl
@[simp] theorem State.jump_klatch (t : Word) : (s.jump t).klatch = s.klatch := rfl
@[simp] theorem State.jump_faultReg (t : Word) : (s.jump t).faultReg = s.faultReg := rfl
@[simp] theorem State.jump_run (t : Word) : (s.jump t).run = s.run := rfl
@[simp] theorem State.jump_events (t : Word) : (s.jump t).events = s.events := rfl
@[simp] theorem State.jump_eventTail (t : Word) : (s.jump t).eventTail = s.eventTail := rfl
@[simp] theorem State.jump_randQueue (t : Word) : (s.jump t).randQueue = s.randQueue := rfl
@[simp] theorem State.jump_randDraws (t : Word) : (s.jump t).randDraws = s.randDraws := rfl

/-! ## `State.skipIf` -/

@[simp] theorem State.skipIf_v (c : Bool) : (s.skipIf c).v = s.v := by cases c <;> rfl
@[simp] theorem State.skipIf_pc (c : Bool) : (s.skipIf c).pc = if c then s.pc + 4 else s.pc + 2 := by cases c <;> rfl
@[simp] theorem State.skipIf_index (c : Bool) : (s.skipIf c).index = s.index := by cases c <;> rfl
@[simp] theorem State.skipIf_stack (c : Bool) : (s.skipIf c).stack = s.stack := by cases c <;> rfl
@[simp] theorem State.skipIf_sp (c : Bool) : (s.skipIf c).sp = s.sp := by cases c <;> rfl
@[simp] theorem State.skipIf_dt (c : Bool) : (s.skipIf c).dt = s.dt := by cases c <;> rfl
@[simp] theorem State.skipIf_st (c : Bool) : (s.skipIf c).st = s.st := by cases c <;> rfl
@[simp] theorem State.skipIf_mem (c : Bool) : (s.skipIf c).mem = s.mem := by cases c <;> rfl
@[simp] theorem State.skipIf_fb (c : Bool) : (s.skipIf c).fb = s.fb := by cases c <;> rfl
@[simp] theorem State.skipIf_keys (c : Bool) : (s.skipIf c).keys = s.keys := by cases c <;> rfl
@[simp] theorem State.skipIf_klatch (c : Bool) : (s.skipIf c).klatch = s.klatch := by cases c <;> rfl
@[simp] theorem State.skipIf_faultReg (c : Bool) : (s.skipIf c).faultReg = s.faultReg := by cases c <;> rfl
@[simp] theorem State.skipIf_run (c : Bool) : (s.skipIf c).run = s.run := by cases c <;> rfl
@[simp] theorem State.skipIf_events (c : Bool) : (s.skipIf c).events = s.events := by cases c <;> rfl
@[simp] theorem State.skipIf_eventTail (c : Bool) : (s.skipIf c).eventTail = s.eventTail := by cases c <;> rfl
@[simp] theorem State.skipIf_randQueue (c : Bool) : (s.skipIf c).randQueue = s.randQueue := by cases c <;> rfl
@[simp] theorem State.skipIf_randDraws (c : Bool) : (s.skipIf c).randDraws = s.randDraws := by cases c <;> rfl

/-! ## `State.push` -/

@[simp] theorem State.push_v (ret : Word) : (s.push ret).v = s.v := rfl
@[simp] theorem State.push_pc (ret : Word) : (s.push ret).pc = s.pc := rfl
@[simp] theorem State.push_index (ret : Word) : (s.push ret).index = s.index := rfl
@[simp] theorem State.push_stack (ret : Word) : (s.push ret).stack = s.stack.set (stackIdx (s.sp + 1)).toNat ret (regIdx_lt _) := rfl
@[simp] theorem State.push_sp (ret : Word) : (s.push ret).sp = s.sp + 1 := rfl
@[simp] theorem State.push_dt (ret : Word) : (s.push ret).dt = s.dt := rfl
@[simp] theorem State.push_st (ret : Word) : (s.push ret).st = s.st := rfl
@[simp] theorem State.push_mem (ret : Word) : (s.push ret).mem = s.mem := rfl
@[simp] theorem State.push_fb (ret : Word) : (s.push ret).fb = s.fb := rfl
@[simp] theorem State.push_keys (ret : Word) : (s.push ret).keys = s.keys := rfl
@[simp] theorem State.push_klatch (ret : Word) : (s.push ret).klatch = s.klatch := rfl
@[simp] theorem State.push_faultReg (ret : Word) : (s.push ret).faultReg = s.faultReg := rfl
@[simp] theorem State.push_run (ret : Word) : (s.push ret).run = s.run := rfl
@[simp] theorem State.push_events (ret : Word) : (s.push ret).events = s.events := rfl
@[simp] theorem State.push_eventTail (ret : Word) : (s.push ret).eventTail = s.eventTail := rfl
@[simp] theorem State.push_randQueue (ret : Word) : (s.push ret).randQueue = s.randQueue := rfl
@[simp] theorem State.push_randDraws (ret : Word) : (s.push ret).randDraws = s.randDraws := rfl

/-! ## `State.pop` -/

@[simp] theorem State.pop_v : (s.pop).v = s.v := rfl
@[simp] theorem State.pop_pc : (s.pop).pc = s.pc := rfl
@[simp] theorem State.pop_index : (s.pop).index = s.index := rfl
@[simp] theorem State.pop_stack : (s.pop).stack = s.stack := rfl
@[simp] theorem State.pop_sp : (s.pop).sp = s.sp - 1 := rfl
@[simp] theorem State.pop_dt : (s.pop).dt = s.dt := rfl
@[simp] theorem State.pop_st : (s.pop).st = s.st := rfl
@[simp] theorem State.pop_mem : (s.pop).mem = s.mem := rfl
@[simp] theorem State.pop_fb : (s.pop).fb = s.fb := rfl
@[simp] theorem State.pop_keys : (s.pop).keys = s.keys := rfl
@[simp] theorem State.pop_klatch : (s.pop).klatch = s.klatch := rfl
@[simp] theorem State.pop_faultReg : (s.pop).faultReg = s.faultReg := rfl
@[simp] theorem State.pop_run : (s.pop).run = s.run := rfl
@[simp] theorem State.pop_events : (s.pop).events = s.events := rfl
@[simp] theorem State.pop_eventTail : (s.pop).eventTail = s.eventTail := rfl
@[simp] theorem State.pop_randQueue : (s.pop).randQueue = s.randQueue := rfl
@[simp] theorem State.pop_randDraws : (s.pop).randDraws = s.randDraws := rfl

/-! ## `State.afterDraw` -/

@[simp] theorem State.afterDraw_v : (s.afterDraw).v = s.v := by unfold State.afterDraw; split <;> rfl
@[simp] theorem State.afterDraw_pc : (s.afterDraw).pc = s.pc := by unfold State.afterDraw; split <;> rfl
@[simp] theorem State.afterDraw_index : (s.afterDraw).index = s.index := by unfold State.afterDraw; split <;> rfl
@[simp] theorem State.afterDraw_stack : (s.afterDraw).stack = s.stack := by unfold State.afterDraw; split <;> rfl
@[simp] theorem State.afterDraw_sp : (s.afterDraw).sp = s.sp := by unfold State.afterDraw; split <;> rfl
@[simp] theorem State.afterDraw_dt : (s.afterDraw).dt = s.dt := by unfold State.afterDraw; split <;> rfl
@[simp] theorem State.afterDraw_st : (s.afterDraw).st = s.st := by unfold State.afterDraw; split <;> rfl
@[simp] theorem State.afterDraw_mem : (s.afterDraw).mem = s.mem := by unfold State.afterDraw; split <;> rfl
@[simp] theorem State.afterDraw_fb : (s.afterDraw).fb = s.fb := by unfold State.afterDraw; split <;> rfl
@[simp] theorem State.afterDraw_keys : (s.afterDraw).keys = s.keys := by unfold State.afterDraw; split <;> rfl
@[simp] theorem State.afterDraw_klatch : (s.afterDraw).klatch = s.klatch := by unfold State.afterDraw; split <;> rfl
@[simp] theorem State.afterDraw_faultReg : (s.afterDraw).faultReg = s.faultReg := by unfold State.afterDraw; split <;> rfl
@[simp] theorem State.afterDraw_run : (s.afterDraw).run = s.run := by unfold State.afterDraw; split <;> rfl
@[simp] theorem State.afterDraw_events : (s.afterDraw).events = s.events := by unfold State.afterDraw; split <;> rfl
@[simp] theorem State.afterDraw_eventTail : (s.afterDraw).eventTail = s.eventTail := by unfold State.afterDraw; split <;> rfl
@[simp] theorem State.afterDraw_randQueue : (s.afterDraw).randQueue = s.randQueue.tail := by unfold State.afterDraw; split <;> simp_all

/-! ## `State.moveIndex` -/

@[simp] theorem State.moveIndex_v (x : RegIdx) : (s.moveIndex x).v = s.v := rfl
@[simp] theorem State.moveIndex_pc (x : RegIdx) : (s.moveIndex x).pc = s.pc := rfl
@[simp] theorem State.moveIndex_index (x : RegIdx) : (s.moveIndex x).index = sat16 (s.base + x.toNat) := rfl
@[simp] theorem State.moveIndex_stack (x : RegIdx) : (s.moveIndex x).stack = s.stack := rfl
@[simp] theorem State.moveIndex_sp (x : RegIdx) : (s.moveIndex x).sp = s.sp := rfl
@[simp] theorem State.moveIndex_dt (x : RegIdx) : (s.moveIndex x).dt = s.dt := rfl
@[simp] theorem State.moveIndex_st (x : RegIdx) : (s.moveIndex x).st = s.st := rfl
@[simp] theorem State.moveIndex_mem (x : RegIdx) : (s.moveIndex x).mem = s.mem := rfl
@[simp] theorem State.moveIndex_fb (x : RegIdx) : (s.moveIndex x).fb = s.fb := rfl
@[simp] theorem State.moveIndex_keys (x : RegIdx) : (s.moveIndex x).keys = s.keys := rfl
@[simp] theorem State.moveIndex_klatch (x : RegIdx) : (s.moveIndex x).klatch = s.klatch := rfl
@[simp] theorem State.moveIndex_faultReg (x : RegIdx) : (s.moveIndex x).faultReg = s.faultReg := rfl
@[simp] theorem State.moveIndex_run (x : RegIdx) : (s.moveIndex x).run = s.run := rfl
@[simp] theorem State.moveIndex_events (x : RegIdx) : (s.moveIndex x).events = s.events := rfl
@[simp] theorem State.moveIndex_eventTail (x : RegIdx) : (s.moveIndex x).eventTail = s.eventTail := rfl
@[simp] theorem State.moveIndex_randQueue (x : RegIdx) : (s.moveIndex x).randQueue = s.randQueue := rfl
@[simp] theorem State.moveIndex_randDraws (x : RegIdx) : (s.moveIndex x).randDraws = s.randDraws := rfl

/-! ## `State.setKey` -/

@[simp] theorem State.setKey_v (k : Key) (b : Bool) : (s.setKey k b).v = s.v := rfl
@[simp] theorem State.setKey_pc (k : Key) (b : Bool) : (s.setKey k b).pc = s.pc := rfl
@[simp] theorem State.setKey_index (k : Key) (b : Bool) : (s.setKey k b).index = s.index := rfl
@[simp] theorem State.setKey_stack (k : Key) (b : Bool) : (s.setKey k b).stack = s.stack := rfl
@[simp] theorem State.setKey_sp (k : Key) (b : Bool) : (s.setKey k b).sp = s.sp := rfl
@[simp] theorem State.setKey_dt (k : Key) (b : Bool) : (s.setKey k b).dt = s.dt := rfl
@[simp] theorem State.setKey_st (k : Key) (b : Bool) : (s.setKey k b).st = s.st := rfl
@[simp] theorem State.setKey_mem (k : Key) (b : Bool) : (s.setKey k b).mem = s.mem := rfl
@[simp] theorem State.setKey_fb (k : Key) (b : Bool) : (s.setKey k b).fb = s.fb := rfl
@[simp] theorem State.setKey_keys (k : Key) (b : Bool) : (s.setKey k b).keys = s.keys.set k.toNat b (regIdx_lt k) := rfl
@[simp] theorem State.setKey_klatch (k : Key) (b : Bool) : (s.setKey k b).klatch = s.klatch := rfl
@[simp] theorem State.setKey_faultReg (k : Key) (b : Bool) : (s.setKey k b).faultReg = s.faultReg := rfl
@[simp] theorem State.setKey_run (k : Key) (b : Bool) : (s.setKey k b).run = s.run := rfl
@[simp] theorem State.setKey_events (k : Key) (b : Bool) : (s.setKey k b).events = s.events := rfl
@[simp] theorem State.setKey_eventTail (k : Key) (b : Bool) : (s.setKey k b).eventTail = s.eventTail := rfl
@[simp] theorem State.setKey_randQueue (k : Key) (b : Bool) : (s.setKey k b).randQueue = s.randQueue := rfl
@[simp] theorem State.setKey_randDraws (k : Key) (b : Bool) : (s.setKey k b).randDraws = s.randDraws := rfl

/-! ## `State.keyDown` -/

@[simp] theorem State.keyDown_v (k : Key) : (s.keyDown k).v = s.v := rfl
@[simp] theorem State.keyDown_pc (k : Key) : (s.keyDown k).pc = s.pc := rfl
@[simp] theorem State.keyDown_index (k : Key) : (s.keyDown k).index = s.index := rfl
@[simp] theorem State.keyDown_stack (k : Key) : (s.keyDown k).stack = s.stack := rfl
@[simp] theorem State.keyDown_sp (k : Key) : (s.keyDown k).sp = s.sp := rfl
@[simp] theorem State.keyDown_dt (k : Key) : (s.keyDown k).dt = s.dt := rfl
@[simp] theorem State.keyDown_st (k : Key) : (s.keyDown k).st = s.st := rfl
@[simp] theorem State.keyDown_mem (k : Key) : (s.keyDown k).mem = s.mem := rfl
@[simp] theorem State.keyDown_fb (k : Key) : (s.keyDown k).fb = s.fb := rfl
@[simp] theorem State.keyDown_keys (k : Key) : (s.keyDown k).keys = s.keys.set k.toNat true (regIdx_lt k) := rfl
@[simp] theorem State.keyDown_klatch (k : Key) : (s.keyDown k).klatch = some k := rfl
@[simp] theorem State.keyDown_faultReg (k : Key) : (s.keyDown k).faultReg = s.faultReg := rfl
@[simp] theorem State.keyDown_run (k : Key) : (s.keyDown k).run = s.run := rfl
@[simp] theorem State.keyDown_events (k : Key) : (s.keyDown k).events = s.events := rfl
@[simp] theorem State.keyDown_eventTail (k : Key) : (s.keyDown k).eventTail = s.eventTail := rfl
@[simp] theorem State.keyDown_randQueue (k : Key) : (s.keyDown k).randQueue = s.randQueue := rfl
@[simp] theorem State.keyDown_randDraws (k : Key) : (s.keyDown k).randDraws = s.randDraws := rfl

/-! ## `State.keyUp` -/

@[simp] theorem State.keyUp_v (k : Key) : (s.keyUp k).v = s.v := rfl
@[simp] theorem State.keyUp_pc (k : Key) : (s.keyUp k).pc = s.pc := rfl
@[simp] theorem State.keyUp_index (k : Key) : (s.keyUp k).index = s.index := rfl
@[simp] theorem State.keyUp_stack (k : Key) : (s.keyUp k).stack = s.stack := rfl
@[simp] theorem State.keyUp_sp (k : Key) : (s.keyUp k).sp = s.sp := rfl
@[simp] theorem State.keyUp_dt (k : Key) : (s.keyUp k).dt = s.dt := rfl
@[simp] theorem State.keyUp_st (k : Key) : (s.keyUp k).st = s.st := rfl
@[simp] theorem State.keyUp_mem (k : Key) : (s.keyUp k).mem = s.mem := rfl
@[simp] theorem State.keyUp_fb (k : Key) : (s.keyUp k).fb = s.fb := rfl
@[simp] theorem State.keyUp_keys (k : Key) : (s.keyUp k).keys = s.keys.set k.toNat false (regIdx_lt k) := rfl
@[simp] theorem State.keyUp_klatch (k : Key) : (s.keyUp k).klatch = s.klatch := rfl
@[simp] theorem State.keyUp_faultReg (k : Key) : (s.keyUp k).faultReg = s.faultReg := rfl
@[simp] theorem State.keyUp_run (k : Key) : (s.keyUp k).run = s.run := rfl
@[simp] theorem State.keyUp_events (k : Key) : (s.keyUp k).events = s.events := rfl
@[simp] theorem State.keyUp_eventTail (k : Key) : (s.keyUp k).eventTail = s.eventTail := rfl
@[simp] theorem State.keyUp_randQueue (k : Key) : (s.keyUp k).randQueue = s.randQueue := rfl
@[simp] theorem State.keyUp_randDraws (k : Key) : (s.keyUp k).randDraws = s.randDraws := rfl

/-! ## `State.keyTaken` -/

@[simp] theorem State.keyTaken_v : (s.keyTaken).v = s.v := rfl
@[simp] theorem State.keyTaken_pc : (s.keyTaken).pc = s.pc := rfl
@[simp] theorem State.keyTaken_index : (s.keyTaken).index = s.index := rfl
@[simp] theorem State.keyTaken_stack : (s.keyTaken).stack = s.stack := rfl
@[simp] theorem State.keyTaken_sp : (s.keyTaken).sp = s.sp := rfl
@[simp] theorem State.keyTaken_dt : (s.keyTaken).dt = s.dt := rfl
@[simp] theorem State.keyTaken_st : (s.keyTaken).st = s.st := rfl
@[simp] theorem State.keyTaken_mem : (s.keyTaken).mem = s.mem := rfl
@[simp] theorem State.keyTaken_fb : (s.keyTaken).fb = s.fb := rfl
@[simp] theorem State.keyTaken_keys : (s.keyTaken).keys = s.keys := rfl
@[simp] theorem State.keyTaken_klatch : (s.keyTaken).klatch = none := rfl
@[simp] theorem State.keyTaken_faultReg : (s.keyTaken).faultReg = s.faultReg := rfl
@[simp] theorem State.keyTaken_run : (s.keyTaken).run = s.run := rfl
@[simp] theorem State.keyTaken_events : (s.keyTaken).events = s.events := rfl
@[simp] theorem State.keyTaken_eventTail : (s.keyTaken).eventTail = s.eventTail := rfl
@[simp] theorem State.keyTaken_randQueue : (s.keyTaken).randQueue = s.randQueue := rfl
@[simp] theorem State.keyTaken_randDraws : (s.keyTaken).randDraws = s.randDraws := rfl

/-! ## `State.started` -/

@[simp] theorem State.started_v : (s.started).v = s.v := rfl
@[simp] theorem State.started_pc : (s.started).pc = s.pc := rfl
@[simp] theorem State.started_index : (s.started).index = s.index := rfl
@[simp] theorem State.started_stack : (s.started).stack = s.stack := rfl
@[simp] theorem State.started_sp : (s.started).sp = s.sp := rfl
@[simp] theorem State.started_dt : (s.started).dt = s.dt := rfl
@[simp] theorem State.started_st : (s.started).st = s.st := rfl
@[simp] theorem State.started_mem : (s.started).mem = s.mem := rfl
@[simp] theorem State.started_fb : (s.started).fb = s.fb := rfl
@[simp] theorem State.started_keys : (s.started).keys = s.keys := rfl
@[simp] theorem State.started_klatch : (s.started).klatch = s.klatch := rfl
@[simp] theorem State.started_faultReg : (s.started).faultReg = s.faultReg := rfl
@[simp] theorem State.started_run : (s.started).run = true := rfl
@[simp] theorem State.started_events : (s.started).events = s.events := rfl
@[simp] theorem State.started_eventTail : (s.started).eventTail = s.eventTail := rfl
@[simp] theorem State.started_randQueue : (s.started).randQueue = s.randQueue := rfl
@[simp] theorem State.started_randDraws : (s.started).randDraws = s.randDraws := rfl

/-! ## `State.stopped` -/

@[simp] theorem State.stopped_v : (s.stopped).v = s.v := rfl
@[simp] theorem State.stopped_pc : (s.stopped).pc = s.pc := rfl
@[simp] theorem State.stopped_index : (s.stopped).index = s.index := rfl
@[simp] theorem State.stopped_stack : (s.stopped).stack = s.stack := rfl
@[simp] theorem State.stopped_sp : (s.stopped).sp = s.sp := rfl
@[simp] theorem State.stopped_dt : (s.stopped).dt = s.dt := rfl
@[simp] theorem State.stopped_st : (s.stopped).st = s.st := rfl
@[simp] theorem State.stopped_mem : (s.stopped).mem = s.mem := rfl
@[simp] theorem State.stopped_fb : (s.stopped).fb = s.fb := rfl
@[simp] theorem State.stopped_keys : (s.stopped).keys = s.keys := rfl
@[simp] theorem State.stopped_klatch : (s.stopped).klatch = s.klatch := rfl
@[simp] theorem State.stopped_faultReg : (s.stopped).faultReg = s.faultReg := rfl
@[simp] theorem State.stopped_run : (s.stopped).run = false := rfl
@[simp] theorem State.stopped_events : (s.stopped).events = s.events := rfl
@[simp] theorem State.stopped_eventTail : (s.stopped).eventTail = s.eventTail := rfl
@[simp] theorem State.stopped_randQueue : (s.stopped).randQueue = s.randQueue := rfl
@[simp] theorem State.stopped_randDraws : (s.stopped).randDraws = s.randDraws := rfl

/-! ## `State.dtTick` -/

@[simp] theorem State.dtTick_v : (s.dtTick).v = s.v := by unfold State.dtTick; split <;> rfl
@[simp] theorem State.dtTick_pc : (s.dtTick).pc = s.pc := by unfold State.dtTick; split <;> rfl
@[simp] theorem State.dtTick_index : (s.dtTick).index = s.index := by unfold State.dtTick; split <;> rfl
@[simp] theorem State.dtTick_stack : (s.dtTick).stack = s.stack := by unfold State.dtTick; split <;> rfl
@[simp] theorem State.dtTick_sp : (s.dtTick).sp = s.sp := by unfold State.dtTick; split <;> rfl
@[simp] theorem State.dtTick_dt : (s.dtTick).dt = if s.run then tickDown s.dt else s.dt := by unfold State.dtTick; split <;> rfl
@[simp] theorem State.dtTick_st : (s.dtTick).st = s.st := by unfold State.dtTick; split <;> rfl
@[simp] theorem State.dtTick_mem : (s.dtTick).mem = s.mem := by unfold State.dtTick; split <;> rfl
@[simp] theorem State.dtTick_fb : (s.dtTick).fb = s.fb := by unfold State.dtTick; split <;> rfl
@[simp] theorem State.dtTick_keys : (s.dtTick).keys = s.keys := by unfold State.dtTick; split <;> rfl
@[simp] theorem State.dtTick_klatch : (s.dtTick).klatch = s.klatch := by unfold State.dtTick; split <;> rfl
@[simp] theorem State.dtTick_faultReg : (s.dtTick).faultReg = s.faultReg := by unfold State.dtTick; split <;> rfl
@[simp] theorem State.dtTick_run : (s.dtTick).run = s.run := by unfold State.dtTick; split <;> rfl
@[simp] theorem State.dtTick_events : (s.dtTick).events = s.events := by unfold State.dtTick; split <;> rfl
@[simp] theorem State.dtTick_eventTail : (s.dtTick).eventTail = s.eventTail := by unfold State.dtTick; split <;> rfl
@[simp] theorem State.dtTick_randQueue : (s.dtTick).randQueue = s.randQueue := by unfold State.dtTick; split <;> rfl
@[simp] theorem State.dtTick_randDraws : (s.dtTick).randDraws = s.randDraws := by unfold State.dtTick; split <;> rfl

/-! ## `State.stTick` -/

@[simp] theorem State.stTick_v : (s.stTick).v = s.v := by unfold State.stTick; split <;> rfl
@[simp] theorem State.stTick_pc : (s.stTick).pc = s.pc := by unfold State.stTick; split <;> rfl
@[simp] theorem State.stTick_index : (s.stTick).index = s.index := by unfold State.stTick; split <;> rfl
@[simp] theorem State.stTick_stack : (s.stTick).stack = s.stack := by unfold State.stTick; split <;> rfl
@[simp] theorem State.stTick_sp : (s.stTick).sp = s.sp := by unfold State.stTick; split <;> rfl
@[simp] theorem State.stTick_dt : (s.stTick).dt = s.dt := by unfold State.stTick; split <;> rfl
@[simp] theorem State.stTick_st : (s.stTick).st = if s.run then tickDown s.st else s.st := by unfold State.stTick; split <;> rfl
@[simp] theorem State.stTick_mem : (s.stTick).mem = s.mem := by unfold State.stTick; split <;> rfl
@[simp] theorem State.stTick_fb : (s.stTick).fb = s.fb := by unfold State.stTick; split <;> rfl
@[simp] theorem State.stTick_keys : (s.stTick).keys = s.keys := by unfold State.stTick; split <;> rfl
@[simp] theorem State.stTick_klatch : (s.stTick).klatch = s.klatch := by unfold State.stTick; split <;> rfl
@[simp] theorem State.stTick_faultReg : (s.stTick).faultReg = s.faultReg := by unfold State.stTick; split <;> rfl
@[simp] theorem State.stTick_run : (s.stTick).run = s.run := by unfold State.stTick; split <;> rfl
@[simp] theorem State.stTick_events : (s.stTick).events = s.events := by unfold State.stTick; split <;> rfl
@[simp] theorem State.stTick_eventTail : (s.stTick).eventTail = s.eventTail := by unfold State.stTick; split <;> rfl
@[simp] theorem State.stTick_randQueue : (s.stTick).randQueue = s.randQueue := by unfold State.stTick; split <;> rfl
@[simp] theorem State.stTick_randDraws : (s.stTick).randDraws = s.randDraws := by unfold State.stTick; split <;> rfl

/-! ## `State.eventTaken` -/

@[simp] theorem State.eventTaken_v : (s.eventTaken).v = s.v := by unfold State.eventTaken; split <;> rfl
@[simp] theorem State.eventTaken_pc : (s.eventTaken).pc = s.pc := by unfold State.eventTaken; split <;> rfl
@[simp] theorem State.eventTaken_index : (s.eventTaken).index = s.index := by unfold State.eventTaken; split <;> rfl
@[simp] theorem State.eventTaken_stack : (s.eventTaken).stack = s.stack := by unfold State.eventTaken; split <;> rfl
@[simp] theorem State.eventTaken_sp : (s.eventTaken).sp = s.sp := by unfold State.eventTaken; split <;> rfl
@[simp] theorem State.eventTaken_dt : (s.eventTaken).dt = s.dt := by unfold State.eventTaken; split <;> rfl
@[simp] theorem State.eventTaken_st : (s.eventTaken).st = s.st := by unfold State.eventTaken; split <;> rfl
@[simp] theorem State.eventTaken_mem : (s.eventTaken).mem = s.mem := by unfold State.eventTaken; split <;> rfl
@[simp] theorem State.eventTaken_fb : (s.eventTaken).fb = s.fb := by unfold State.eventTaken; split <;> rfl
@[simp] theorem State.eventTaken_keys : (s.eventTaken).keys = s.keys := by unfold State.eventTaken; split <;> rfl
@[simp] theorem State.eventTaken_klatch : (s.eventTaken).klatch = s.klatch := by unfold State.eventTaken; split <;> rfl
@[simp] theorem State.eventTaken_faultReg : (s.eventTaken).faultReg = s.faultReg := by unfold State.eventTaken; split <;> rfl
@[simp] theorem State.eventTaken_run : (s.eventTaken).run = s.run := by unfold State.eventTaken; split <;> rfl
@[simp] theorem State.eventTaken_randQueue : (s.eventTaken).randQueue = s.randQueue := by unfold State.eventTaken; split <;> rfl
@[simp] theorem State.eventTaken_randDraws : (s.eventTaken).randDraws = s.randDraws := by unfold State.eventTaken; split <;> rfl

/-! ## Registers -/

/-- Reading a register after writing one. -/
@[simp] theorem State.reg_setReg (x r : RegIdx) (b : Byte) : (s.setReg x b).reg r = if r = x then b else s.reg r := by
  simp only [State.reg, State.setReg, Vector.getElem_set]
  by_cases h : r = x
  · simp [h]
  · have : x.toNat ≠ r.toNat := fun e => h (BitVec.eq_of_toNat_eq e.symm)
    simp [h, this]

/-- Reading a register after `VF` and then `V[x]` were written (42_load_alu.md R131). -/
@[simp] theorem State.reg_setFlagThenReg (f : Byte) (x r : RegIdx) (b : Byte) :
    (s.setFlagThenReg f x b).reg r = if r = x then b else if r = vf then f else s.reg r := by
  simp [State.setFlagThenReg]

/-- Registers are read from `v` alone. -/
theorem State.reg_congr {s t : State} (h : t.v = s.v) (r : RegIdx) : t.reg r = s.reg r := by
  simp [State.reg, h]

@[simp] theorem State.setIndex_reg (w : Word) (r : RegIdx) : (s.setIndex w).reg r = s.reg r := State.reg_congr (by simp) r
@[simp] theorem State.setDt_reg (b : Byte) (r : RegIdx) : (s.setDt b).reg r = s.reg r := State.reg_congr (by simp) r
@[simp] theorem State.setSt_reg (b : Byte) (r : RegIdx) : (s.setSt b).reg r = s.reg r := State.reg_congr (by simp) r
@[simp] theorem State.setMem_reg (m : Memory) (r : RegIdx) : (s.setMem m).reg r = s.reg r := State.reg_congr (by simp) r
@[simp] theorem State.setFb_reg (f : FrameBuffer) (r : RegIdx) : (s.setFb f).reg r = s.reg r := State.reg_congr (by simp) r
@[simp] theorem State.setFault_reg (f : FaultReg) (r : RegIdx) : (s.setFault f).reg r = s.reg r := State.reg_congr (by simp) r
@[simp] theorem State.setSchedule_reg (es : List Event) (tl : EventTail) (r : RegIdx) : (s.setSchedule es tl).reg r = s.reg r := State.reg_congr (by simp) r
@[simp] theorem State.advance_reg (r : RegIdx) : (s.advance).reg r = s.reg r := State.reg_congr (by simp) r
@[simp] theorem State.skipNext_reg (r : RegIdx) : (s.skipNext).reg r = s.reg r := State.reg_congr (by simp) r
@[simp] theorem State.jump_reg (t : Word) (r : RegIdx) : (s.jump t).reg r = s.reg r := State.reg_congr (by simp) r
@[simp] theorem State.skipIf_reg (c : Bool) (r : RegIdx) : (s.skipIf c).reg r = s.reg r := State.reg_congr (by simp) r
@[simp] theorem State.push_reg (ret : Word) (r : RegIdx) : (s.push ret).reg r = s.reg r := State.reg_congr (by simp) r
@[simp] theorem State.pop_reg (r : RegIdx) : (s.pop).reg r = s.reg r := State.reg_congr (by simp) r
@[simp] theorem State.afterDraw_reg (r : RegIdx) : (s.afterDraw).reg r = s.reg r := State.reg_congr (by simp) r
@[simp] theorem State.moveIndex_reg (x : RegIdx) (r : RegIdx) : (s.moveIndex x).reg r = s.reg r := State.reg_congr (by simp) r
@[simp] theorem State.setKey_reg (k : Key) (b : Bool) (r : RegIdx) : (s.setKey k b).reg r = s.reg r := State.reg_congr (by simp) r
@[simp] theorem State.keyDown_reg (k : Key) (r : RegIdx) : (s.keyDown k).reg r = s.reg r := State.reg_congr (by simp) r
@[simp] theorem State.keyUp_reg (k : Key) (r : RegIdx) : (s.keyUp k).reg r = s.reg r := State.reg_congr (by simp) r
@[simp] theorem State.keyTaken_reg (r : RegIdx) : (s.keyTaken).reg r = s.reg r := State.reg_congr (by simp) r
@[simp] theorem State.started_reg (r : RegIdx) : (s.started).reg r = s.reg r := State.reg_congr (by simp) r
@[simp] theorem State.stopped_reg (r : RegIdx) : (s.stopped).reg r = s.reg r := State.reg_congr (by simp) r
@[simp] theorem State.dtTick_reg (r : RegIdx) : (s.dtTick).reg r = s.reg r := State.reg_congr (by simp) r
@[simp] theorem State.stTick_reg (r : RegIdx) : (s.stTick).reg r = s.reg r := State.reg_congr (by simp) r
@[simp] theorem State.eventTaken_reg (r : RegIdx) : (s.eventTaken).reg r = s.reg r := State.reg_congr (by simp) r

/-! ## Keys -/

/-- Keys are read from `keys` alone. -/
theorem State.keyPressed_congr {s t : State} (h : t.keys = s.keys) (q : Byte) : t.keyPressed q = s.keyPressed q := by
  simp [State.keyPressed, h]

@[simp] theorem State.setReg_keyPressed (x : RegIdx) (b : Byte) (q : Byte) : (s.setReg x b).keyPressed q = s.keyPressed q :=
  State.keyPressed_congr (by simp) q
@[simp] theorem State.setFlagThenReg_keyPressed (f : Byte) (x : RegIdx) (b : Byte) (q : Byte) : (s.setFlagThenReg f x b).keyPressed q = s.keyPressed q :=
  State.keyPressed_congr (by simp) q
@[simp] theorem State.setRegs_keyPressed (w : RegFile) (q : Byte) : (s.setRegs w).keyPressed q = s.keyPressed q :=
  State.keyPressed_congr (by simp) q
@[simp] theorem State.setIndex_keyPressed (w : Word) (q : Byte) : (s.setIndex w).keyPressed q = s.keyPressed q :=
  State.keyPressed_congr (by simp) q
@[simp] theorem State.setDt_keyPressed (b : Byte) (q : Byte) : (s.setDt b).keyPressed q = s.keyPressed q :=
  State.keyPressed_congr (by simp) q
@[simp] theorem State.setSt_keyPressed (b : Byte) (q : Byte) : (s.setSt b).keyPressed q = s.keyPressed q :=
  State.keyPressed_congr (by simp) q
@[simp] theorem State.setMem_keyPressed (m : Memory) (q : Byte) : (s.setMem m).keyPressed q = s.keyPressed q :=
  State.keyPressed_congr (by simp) q
@[simp] theorem State.setFb_keyPressed (f : FrameBuffer) (q : Byte) : (s.setFb f).keyPressed q = s.keyPressed q :=
  State.keyPressed_congr (by simp) q
@[simp] theorem State.setFault_keyPressed (f : FaultReg) (q : Byte) : (s.setFault f).keyPressed q = s.keyPressed q :=
  State.keyPressed_congr (by simp) q
@[simp] theorem State.setSchedule_keyPressed (es : List Event) (tl : EventTail) (q : Byte) : (s.setSchedule es tl).keyPressed q = s.keyPressed q :=
  State.keyPressed_congr (by simp) q
@[simp] theorem State.advance_keyPressed (q : Byte) : (s.advance).keyPressed q = s.keyPressed q :=
  State.keyPressed_congr (by simp) q
@[simp] theorem State.skipNext_keyPressed (q : Byte) : (s.skipNext).keyPressed q = s.keyPressed q :=
  State.keyPressed_congr (by simp) q
@[simp] theorem State.jump_keyPressed (t : Word) (q : Byte) : (s.jump t).keyPressed q = s.keyPressed q :=
  State.keyPressed_congr (by simp) q
@[simp] theorem State.skipIf_keyPressed (c : Bool) (q : Byte) : (s.skipIf c).keyPressed q = s.keyPressed q :=
  State.keyPressed_congr (by simp) q
@[simp] theorem State.push_keyPressed (ret : Word) (q : Byte) : (s.push ret).keyPressed q = s.keyPressed q :=
  State.keyPressed_congr (by simp) q
@[simp] theorem State.pop_keyPressed (q : Byte) : (s.pop).keyPressed q = s.keyPressed q :=
  State.keyPressed_congr (by simp) q
@[simp] theorem State.afterDraw_keyPressed (q : Byte) : (s.afterDraw).keyPressed q = s.keyPressed q :=
  State.keyPressed_congr (by simp) q
@[simp] theorem State.moveIndex_keyPressed (x : RegIdx) (q : Byte) : (s.moveIndex x).keyPressed q = s.keyPressed q :=
  State.keyPressed_congr (by simp) q
@[simp] theorem State.keyTaken_keyPressed (q : Byte) : (s.keyTaken).keyPressed q = s.keyPressed q :=
  State.keyPressed_congr (by simp) q
@[simp] theorem State.started_keyPressed (q : Byte) : (s.started).keyPressed q = s.keyPressed q :=
  State.keyPressed_congr (by simp) q
@[simp] theorem State.stopped_keyPressed (q : Byte) : (s.stopped).keyPressed q = s.keyPressed q :=
  State.keyPressed_congr (by simp) q
@[simp] theorem State.dtTick_keyPressed (q : Byte) : (s.dtTick).keyPressed q = s.keyPressed q :=
  State.keyPressed_congr (by simp) q
@[simp] theorem State.stTick_keyPressed (q : Byte) : (s.stTick).keyPressed q = s.keyPressed q :=
  State.keyPressed_congr (by simp) q
@[simp] theorem State.eventTaken_keyPressed (q : Byte) : (s.eventTaken).keyPressed q = s.keyPressed q :=
  State.keyPressed_congr (by simp) q

/-! ## The stack -/

/-- Reading an entry after a push: the new top is the pushed word, every other entry is as before (10_state.md R29). -/
theorem State.stackAt_push (ret : Word) (p : BitVec 5) :
    (s.push ret).stackAt p = if stackIdx p = stackIdx (s.sp + 1) then ret else s.stackAt p := by
  simp only [State.stackAt, State.push_stack, Vector.getElem_set]
  by_cases h : stackIdx p = stackIdx (s.sp + 1)
  · simp [h]
  · have : (stackIdx (s.sp + 1)).toNat ≠ (stackIdx p).toNat := fun e => h (BitVec.eq_of_toNat_eq e.symm)
    rw [if_neg h, if_neg this]

/-! ## Key events -/

/-- `KeyPressed` after a key was set (45_keypad.md R160, R161). -/
theorem State.keyPressed_setKey (k : Key) (b : Bool) (q : Byte) :
    (s.setKey k b).keyPressed q = if q.toNat = k.toNat then b else s.keyPressed q := by
  unfold State.keyPressed
  have hk := regIdx_lt k
  by_cases hq : q.toNat < 16
  · simp only [hq, dite_true, State.setKey_keys, Vector.getElem_set]
    by_cases h : k.toNat = q.toNat
    · simp [h]
    · have h' : ¬ q.toNat = k.toNat := fun e => h e.symm
      simp [h, h']
  · have h' : ¬ q.toNat = k.toNat := by omega
    simp [hq, h']

/-! ## Timers -/

/-- A tick takes one from a timer that is not 0 and leaves 0 alone (60_exceptions.md R215, R216). -/
theorem tickDown_toNat (t : Byte) : (tickDown t).toNat = t.toNat - 1 := by
  unfold tickDown
  split
  · have := t.isLt
    rw [BitVec.toNat_sub]
    show (256 - 1 + t.toNat) % 256 = _
    omega
  · omega

end Sys2Proof.Machine
end

