-- ==== Sys2Proof/Laws/Operands.lean ====
section
/-! SUPPORT. The operand forms as numbers; the registers of a block transfer; the flags; the saturating sum. -/

namespace Sys2Proof.Machine

/-! ## Numbers -/

@[simp] theorem sat16_toNat (v : Nat) : (sat16 v).toNat = min v 0xFFFF := by
  simp only [sat16, BitVec.toNat_ofNat]
  omega

@[simp] theorem addrOperand_toNat (nnn : BitVec 12) : (addrOperand nnn).toNat = nnn.toNat := by
  have := nnn.isLt
  simp only [addrOperand, BitVec.toNat_setWidth]
  omega

@[simp] theorem zext16_toNat (b : Byte) : (zext16 b).toNat = b.toNat := by
  have := b.isLt
  simp only [zext16, BitVec.toNat_setWidth]
  omega

@[simp] theorem keyByte_toNat (k : Key) : (keyByte k).toNat = k.toNat := by
  have := k.isLt
  simp only [keyByte, BitVec.toNat_setWidth]
  omega

@[simp] theorem glyphAddr_toNat (b : Byte) : (glyphAddr b).toNat = b.toNat * 5 := by
  have := b.isLt
  have h5 : (5 : Word).toNat = 5 := rfl
  rw [glyphAddr, BitVec.toNat_mul, zext16_toNat, h5]
  omega

theorem State.base_lt (s : State) : s.base < 65536 := s.index.isLt

/-! ## Flags -/

@[simp] theorem flagByte_toNat (b : Bool) : (flagByte b).toNat = if b then 1 else 0 := by cases b <;> rfl

/-! ## The registers of a block transfer (47_memory_transfer.md R181, R182) -/

@[simp] theorem State.regsUpTo_length (s : State) (x : RegIdx) : (s.regsUpTo x).length = x.toNat + 1 := by
  have := regIdx_lt x
  simp only [State.regsUpTo, List.length_take, Vector.length_toList]
  omega

/-- Byte `k` of the block is `V[k]`. -/
theorem State.regsUpTo_getElem (s : State) (x : RegIdx) (k : RegIdx) (h : k.toNat < (s.regsUpTo x).length) :
    (s.regsUpTo x)[k.toNat] = s.reg k := by
  simp [State.regsUpTo, State.reg]

/-- Writing bytes from register `i` on: register `r` gets the byte at its place in the list, every other keeps its value. -/
theorem setRegsFrom_getElem (bs : List Byte) (v : RegFile) (i r : Nat) (hr : r < 16) :
    (setRegsFrom v i bs)[r] = if h : i ≤ r ∧ r < i + bs.length then bs[r - i] else v[r] := by
  induction bs generalizing v i with
  | nil =>
    have : ¬ (i ≤ r ∧ r < i + 0) := by omega
    simp [setRegsFrom]
  | cons b rest ih =>
    rw [setRegsFrom, ih]
    rcases lt_trichotomy r i with h | h | h
    · have h1 : ¬ (i + 1 ≤ r ∧ r < i + 1 + rest.length) := by omega
      have h2 : ¬ (i ≤ r ∧ r < i + (b :: rest).length) := by omega
      rw [dif_neg h1, dif_neg h2, Vector.getElem_setIfInBounds_ne hr (by omega)]
    · subst h
      have h1 : ¬ (r + 1 ≤ r ∧ r < r + 1 + rest.length) := by omega
      have h2 : r ≤ r ∧ r < r + (b :: rest).length := by simp
      rw [dif_neg h1, dif_pos h2]
      simp
    · by_cases hl : r < i + 1 + rest.length
      · have h1 : i + 1 ≤ r ∧ r < i + 1 + rest.length := by omega
        have h2 : i ≤ r ∧ r < i + (b :: rest).length := by
          simp only [List.length_cons]
          omega
        rw [dif_pos h1, dif_pos h2]
        have : r - i = (r - (i + 1)) + 1 := by omega
        simp [this]
      · have h1 : ¬ (i + 1 ≤ r ∧ r < i + 1 + rest.length) := by omega
        have h2 : ¬ (i ≤ r ∧ r < i + (b :: rest).length) := by
          simp only [List.length_cons]
          omega
        rw [dif_neg h1, dif_neg h2, Vector.getElem_setIfInBounds_ne hr (by omega)]

@[simp] theorem bcdDigits_length (a : Byte) : (bcdDigits a).length = 3 := rfl

/-- The three digits spell the byte, each below ten (R180). -/
theorem bcdDigits_spell (a : Byte) :
    ∃ h t o : Byte, bcdDigits a = [h, t, o] ∧ h.toNat < 3 ∧ t.toNat < 10 ∧ o.toNat < 10 ∧
      a.toNat = 100 * h.toNat + 10 * t.toNat + o.toNat := by
  have := a.isLt
  refine ⟨_, _, _, rfl, ?_⟩
  simp only [BitVec.toNat_ofNat]
  omega

/-! ## The stack pointer (10_state.md R30) -/

theorem stackIdx_toNat (sp : BitVec 5) : (stackIdx sp).toNat = sp.toNat % 16 := by
  simp [stackIdx]

end Sys2Proof.Machine
end

