-- ==== Sys2Proof/Laws/PerInstr.lean ====
section
/-! SUPPORT. Statements for all instructions, one lemma per constructor. -/

namespace Sys2Proof.Laws.EncodeMatches

/-- The word of an instruction is matched by the descriptor that has the instruction's name (30_encoding.md R72, R76). -/
def Statement (i : Instr) : Prop := ∀ d ∈ opcodeTable, d.name = i.mnemonic → d.matchesWord (encode i) = true

/-- It is enough to look at the one row of that name. -/
theorem of_rows {i : Instr} (h : opcodeTable.all (fun d => d.name ≠ i.mnemonic || d.matchesWord (encode i)) = true) :
    Statement i := by
  intro d hd hn
  have := List.all_eq_true.mp h d hd
  simpa [hn] using this

/-- The row of a name whose instruction has the word `w`. -/
theorem of_row {i : Instr} (mask code : Word) (hw : encode i &&& mask = code)
    (h : opcodeTable.all (fun d => d.name ≠ i.mnemonic || (d.mask = mask ∧ d.code = code)) = true) : Statement i := by
  intro d hd hn
  have := List.all_eq_true.mp h d hd
  simp only [hn, ne_eq, not_true_eq_false, decide_false, Bool.false_or, decide_eq_true_eq] at this
  rw [OpcodeDescriptor.matchesWord, this.1, this.2, hw]
  exact decide_eq_true rfl

theorem cls : Statement (.cls) := of_rows (by decide)
theorem ret : Statement (.ret) := of_rows (by decide)
theorem sys (nnn : BitVec 12) : Statement (.sys nnn) := 
  of_row 0xF000 0x0000 (by simp [encode, encodeA_eq, mask_F000, encodeXY_eq_iff]) rfl
theorem jp (nnn : BitVec 12) : Statement (.jp nnn) := 
  of_row 0xF000 0x1000 (by simp [encode, encodeA_eq, mask_F000, encodeXY_eq_iff]) rfl
theorem call (nnn : BitVec 12) : Statement (.call nnn) := 
  of_row 0xF000 0x2000 (by simp [encode, encodeA_eq, mask_F000, encodeXY_eq_iff]) rfl
theorem seVxNn (x : RegIdx) (nn : Byte) : Statement (.seVxNn x nn) := 
  of_row 0xF000 0x3000 (by simp [encode, encodeXI_eq, mask_F000, encodeXY_eq_iff]) rfl
theorem sneVxNn (x : RegIdx) (nn : Byte) : Statement (.sneVxNn x nn) := 
  of_row 0xF000 0x4000 (by simp [encode, encodeXI_eq, mask_F000, encodeXY_eq_iff]) rfl
theorem seVxVy (x : RegIdx) (y : RegIdx) : Statement (.seVxVy x y) := 
  of_row 0xF00F 0x5000 (by simp [encode, mask_F00F, encodeXY_eq_iff]) rfl
theorem ldVxNn (x : RegIdx) (nn : Byte) : Statement (.ldVxNn x nn) := 
  of_row 0xF000 0x6000 (by simp [encode, encodeXI_eq, mask_F000, encodeXY_eq_iff]) rfl
theorem addVxNn (x : RegIdx) (nn : Byte) : Statement (.addVxNn x nn) := 
  of_row 0xF000 0x7000 (by simp [encode, encodeXI_eq, mask_F000, encodeXY_eq_iff]) rfl
theorem ldVxVy (x : RegIdx) (y : RegIdx) : Statement (.ldVxVy x y) := 
  of_row 0xF00F 0x8000 (by simp [encode, mask_F00F, encodeXY_eq_iff]) rfl
theorem orVxVy (x : RegIdx) (y : RegIdx) : Statement (.orVxVy x y) := 
  of_row 0xF00F 0x8001 (by simp [encode, mask_F00F, encodeXY_eq_iff]) rfl
theorem andVxVy (x : RegIdx) (y : RegIdx) : Statement (.andVxVy x y) := 
  of_row 0xF00F 0x8002 (by simp [encode, mask_F00F, encodeXY_eq_iff]) rfl
theorem xorVxVy (x : RegIdx) (y : RegIdx) : Statement (.xorVxVy x y) := 
  of_row 0xF00F 0x8003 (by simp [encode, mask_F00F, encodeXY_eq_iff]) rfl
theorem addVxVy (x : RegIdx) (y : RegIdx) : Statement (.addVxVy x y) := 
  of_row 0xF00F 0x8004 (by simp [encode, mask_F00F, encodeXY_eq_iff]) rfl
theorem subVxVy (x : RegIdx) (y : RegIdx) : Statement (.subVxVy x y) := 
  of_row 0xF00F 0x8005 (by simp [encode, mask_F00F, encodeXY_eq_iff]) rfl
theorem shrVx (x : RegIdx) (y : RegIdx) : Statement (.shrVx x y) := 
  of_row 0xF00F 0x8006 (by simp [encode, mask_F00F, encodeXY_eq_iff]) rfl
theorem subnVxVy (x : RegIdx) (y : RegIdx) : Statement (.subnVxVy x y) := 
  of_row 0xF00F 0x8007 (by simp [encode, mask_F00F, encodeXY_eq_iff]) rfl
theorem shlVx (x : RegIdx) (y : RegIdx) : Statement (.shlVx x y) := 
  of_row 0xF00F 0x800E (by simp [encode, mask_F00F, encodeXY_eq_iff]) rfl
theorem sneVxVy (x : RegIdx) (y : RegIdx) : Statement (.sneVxVy x y) := 
  of_row 0xF00F 0x9000 (by simp [encode, mask_F00F, encodeXY_eq_iff]) rfl
theorem ldINnn (nnn : BitVec 12) : Statement (.ldINnn nnn) := 
  of_row 0xF000 0xA000 (by simp [encode, encodeA_eq, mask_F000, encodeXY_eq_iff]) rfl
theorem jpV0 (nnn : BitVec 12) : Statement (.jpV0 nnn) := 
  of_row 0xF000 0xB000 (by simp [encode, encodeA_eq, mask_F000, encodeXY_eq_iff]) rfl
theorem rnd (x : RegIdx) (nn : Byte) : Statement (.rnd x nn) := 
  of_row 0xF000 0xC000 (by simp [encode, encodeXI_eq, mask_F000, encodeXY_eq_iff]) rfl
theorem drw (x : RegIdx) (y : RegIdx) (n : BitVec 4) : Statement (.drw x y n) := 
  of_row 0xF000 0xD000 (by simp [encode, mask_F000, encodeXY_eq_iff]) rfl
theorem skp (x : RegIdx) : Statement (.skp x) := 
  of_row 0xF0FF 0xE09E (by simp [encode, encodeX_eq, mask_F0FF, encodeXY_eq_iff]) rfl
theorem sknp (x : RegIdx) : Statement (.sknp x) := 
  of_row 0xF0FF 0xE0A1 (by simp [encode, encodeX_eq, mask_F0FF, encodeXY_eq_iff]) rfl
theorem ldVxDt (x : RegIdx) : Statement (.ldVxDt x) := 
  of_row 0xF0FF 0xF007 (by simp [encode, encodeX_eq, mask_F0FF, encodeXY_eq_iff]) rfl
theorem ldVxK (x : RegIdx) : Statement (.ldVxK x) := 
  of_row 0xF0FF 0xF00A (by simp [encode, encodeX_eq, mask_F0FF, encodeXY_eq_iff]) rfl
theorem ldDtVx (x : RegIdx) : Statement (.ldDtVx x) := 
  of_row 0xF0FF 0xF015 (by simp [encode, encodeX_eq, mask_F0FF, encodeXY_eq_iff]) rfl
theorem ldStVx (x : RegIdx) : Statement (.ldStVx x) := 
  of_row 0xF0FF 0xF018 (by simp [encode, encodeX_eq, mask_F0FF, encodeXY_eq_iff]) rfl
theorem addIVx (x : RegIdx) : Statement (.addIVx x) := 
  of_row 0xF0FF 0xF01E (by simp [encode, encodeX_eq, mask_F0FF, encodeXY_eq_iff]) rfl
theorem ldFVx (x : RegIdx) : Statement (.ldFVx x) := 
  of_row 0xF0FF 0xF029 (by simp [encode, encodeX_eq, mask_F0FF, encodeXY_eq_iff]) rfl
theorem ldBVx (x : RegIdx) : Statement (.ldBVx x) := 
  of_row 0xF0FF 0xF033 (by simp [encode, encodeX_eq, mask_F0FF, encodeXY_eq_iff]) rfl
theorem ldMemVx (x : RegIdx) : Statement (.ldMemVx x) := 
  of_row 0xF0FF 0xF055 (by simp [encode, encodeX_eq, mask_F0FF, encodeXY_eq_iff]) rfl
theorem ldVxMem (x : RegIdx) : Statement (.ldVxMem x) := 
  of_row 0xF0FF 0xF065 (by simp [encode, encodeX_eq, mask_F0FF, encodeXY_eq_iff]) rfl
theorem unknown (w : Word) : Statement (.unknown w) := of_rows rfl

end Sys2Proof.Laws.EncodeMatches
end

