-- ==== Sys2Proof/Laws/Steps.lean ====
section
/-! SUPPORT. What a move of the machine can be: taking a fault, the fetch, the instruction cycle, the `step` event, an event of the
schedule; and that a placed word is the next one fetched. -/

namespace Sys2Proof.Machine

/-! ## Taking a fault -/

@[simp] theorem raise_eq (cause : FaultCause) (addr : Word) (s : State) :
    raise cause addr s = .next (s.setFault ⟨cause, addr⟩) := rfl

@[simp] theorem raiseOutOfRange_eq (a : Nat) (s : State) :
    raiseOutOfRange a s = .next (s.setFault ⟨.outOfRange, sat16 a⟩) := rfl

/-! ## The fetch (20_memory.md R56) -/

/-- Everything the fetch can do. -/
theorem State.fetch_cases (s : State) :
    (s.pc.toNat + 2 ≤ Config.memSize ∧
      s.fetch = .ok (wordOfBytes (s.mem.get s.pc.toNat) (s.mem.get (s.pc.toNat + 1)))) ∨
    (Config.memSize < s.pc.toNat + 2 ∧ s.fetch = .error (max s.pc.toNat Config.memSize)) :=
  memRead2_cases s.mem s.pc.toNat

/-- Everything the instruction cycle can do (40_control_transfer.md R100). -/
theorem instrCycle_cases (s : State) :
    (s.pc.toNat + 2 ≤ Config.memSize ∧
      instrCycle s = exec (decode (wordOfBytes (s.mem.get s.pc.toNat) (s.mem.get (s.pc.toNat + 1)))) s) ∨
    (Config.memSize < s.pc.toNat + 2 ∧
      instrCycle s = .next (s.setFault ⟨.outOfRange, sat16 (max s.pc.toNat Config.memSize)⟩)) := by
  rcases s.fetch_cases with ⟨h, hf⟩ | ⟨h, hf⟩
  · exact .inl ⟨h, by rw [instrCycle, hf]⟩
  · exact .inr ⟨h, by rw [instrCycle, hf]; rfl⟩

/-- When `step` is enabled. -/
theorem State.stepEnabled_iff (s : State) : s.stepEnabled = true ↔ s.run = true ∧ s.faultReg.cause = .none := by
  simp [State.stepEnabled]

/-- Everything the `step` event can do. -/
theorem stepEvent_cases (s : State) :
    ((s.run = true ∧ s.faultReg.cause = .none) ∧ stepEvent s = instrCycle s) ∨
    (¬ (s.run = true ∧ s.faultReg.cause = .none) ∧ stepEvent s = .next s) := by
  by_cases h : s.stepEnabled = true
  · exact .inl ⟨s.stepEnabled_iff.mp h, by rw [stepEvent, if_pos h]⟩
  · exact .inr ⟨fun h' => h (s.stepEnabled_iff.mpr h'), by rw [stepEvent, if_neg h]⟩

/-- A move is the next event, from the state with that event taken. -/
theorem step_eq (s : State) : step s = applyEvent s.nextEvent s.eventTaken := rfl

/-- Everything the schedule can say (60_exceptions.md R214; log 1). -/
theorem State.nextEvent_cases (s : State) :
    (∃ e rest, s.events = e :: rest ∧ s.nextEvent = e ∧ s.eventTaken = s.setSchedule rest s.eventTail) ∨
    (s.events = [] ∧ s.eventTail = .steps ∧ s.nextEvent = .step ∧ s.eventTaken = s) ∨
    (∃ n, s.events = [] ∧ s.eventTail = .free n ∧ s.nextEvent = Config.freeEvent n ∧
      s.eventTaken = s.setSchedule [] (.free (n + 1))) := by
  unfold State.nextEvent State.eventTaken
  rcases he : s.events with _ | ⟨e, rest⟩ <;> rcases ht : s.eventTail with _ | n <;> simp

/-- Everything a move can be: an event of the list, a `step` event where nothing else is to come, or an event of the free order. -/
theorem step_cases (s : State) :
    (∃ e rest, s.events = e :: rest ∧ step s = applyEvent e (s.setSchedule rest s.eventTail)) ∨
    (s.events = [] ∧ s.eventTail = .steps ∧ step s = stepEvent s) ∨
    (∃ n, s.events = [] ∧ s.eventTail = .free n ∧ step s = applyEvent (Config.freeEvent n) (s.setSchedule [] (.free (n + 1)))) := by
  rw [step_eq]
  rcases s.nextEvent_cases with ⟨e, rest, h, hn, ht⟩ | ⟨h, h', hn, ht⟩ | ⟨n, h, h', hn, ht⟩
  · exact .inl ⟨e, rest, h, by rw [hn, ht]⟩
  · exact .inr (.inl ⟨h, h', by rw [hn, ht]; rfl⟩)
  · exact .inr (.inr ⟨n, h, h', by rw [hn, ht]⟩)

/-! ## A placed word -/

/-- A placed word's address leaves room for two bytes. -/
theorem State.fetchSpot_le (s : State) : s.fetchSpot.toNat + 2 ≤ Config.memSize := by
  unfold State.fetchSpot
  split
  · assumption
  · decide

/-- The next fetch reads the placed word. -/
theorem State.fetch_placeWord (s : State) (hs : s.mem.wf) (w : Word) : (s.placeWord w).fetch = .ok w := by
  have hp : (s.placeWord w).pc = s.fetchSpot := rfl
  have hm : (s.placeWord w).mem = s.mem.writeBytes s.fetchSpot.toNat (bytesOfWord w) := rfl
  rcases (s.placeWord w).fetch_cases with ⟨-, hf⟩ | ⟨h, -⟩
  · rw [hf, hp, hm]
    have h0 := Memory.get_writeBytes_inside (bytesOfWord w) s.mem hs.1 s.fetchSpot.toNat 0 (by simp [bytesOfWord])
    have h1 := Memory.get_writeBytes_inside (bytesOfWord w) s.mem hs.1 s.fetchSpot.toNat 1 (by simp [bytesOfWord])
    rw [Nat.add_zero] at h0
    rw [h0, h1]
    simp [bytesOfWord]
  · have := s.fetchSpot_le
    rw [hp] at h
    omega

end Sys2Proof.Machine
end

