-- ==== Sys2Proof/Laws/Schedule.lean ====
section
/-! SUPPORT. Nothing the machine does looks at the schedule or changes it: an instruction, and any event once it is taken, does the same
whatever is still to come (00_scope.md R11, 60_exceptions.md R214). So an order of events may be played from the schedule or from
outside. -/

namespace Sys2Proof.Machine

/-- The result with its state under another schedule. -/
def underSchedule (es : List Event) (tl : EventTail) : Result → Result
  | .next t => .next (t.setSchedule es tl)
  | .fault r => .fault r
  | .refused r => .refused r

variable (es : List Event) (tl : EventTail)

theorem underSchedule_ite (c : Prop) [Decidable c] (a b : Result) :
    underSchedule es tl (if c then a else b) = if c then underSchedule es tl a else underSchedule es tl b :=
  apply_ite (underSchedule es tl) c a b

@[simp] theorem underSchedule_next (t : State) : underSchedule es tl (.next t) = .next (t.setSchedule es tl) := rfl
@[simp] theorem underSchedule_refused (r : Refusal) : underSchedule es tl (.refused r) = .refused r := rfl

@[simp] theorem State.setSchedule_setSchedule (s : State) (fs : List Event) (ul : EventTail) :
    (s.setSchedule fs ul).setSchedule es tl = s.setSchedule es tl := rfl

@[simp] theorem State.setSchedule_rand8 (s : State) : (s.setSchedule es tl).rand8 = s.rand8 := rfl

@[simp] theorem State.setSchedule_base (s : State) : (s.setSchedule es tl).base = s.base := rfl

@[simp] theorem State.setSchedule_regsUpTo (s : State) (x : RegIdx) : (s.setSchedule es tl).regsUpTo x = s.regsUpTo x := rfl

theorem State.setSchedule_afterDraw (s : State) : (s.setSchedule es tl).afterDraw = s.afterDraw.setSchedule es tl := by
  unfold State.afterDraw
  rw [State.setSchedule_randQueue]
  split <;> rfl

theorem State.setSchedule_skipIf (s : State) (c : Bool) : (s.setSchedule es tl).skipIf c = (s.skipIf c).setSchedule es tl := by
  cases c <;> rfl

/-- An instruction does the same whatever is still to come. -/
theorem exec_setSchedule (i : Instr) (s : State) : exec i (s.setSchedule es tl) = underSchedule es tl (exec i s) := by
  cases i
  case rnd x nn => simp only [exec, execRnd, State.setSchedule_afterDraw]; rfl
  case seVxNn | sneVxNn | seVxVy | sneVxVy | skp | sknp => exact congrArg Host.Outcome.next (State.setSchedule_skipIf es tl s _)
  case ret => simp only [exec, execRet, State.setSchedule_sp, underSchedule_ite]; rfl
  case call => simp only [exec, execCall, State.setSchedule_sp, underSchedule_ite]; rfl
  case ldVxK => simp only [exec, execLdVxK, State.setSchedule_klatch]; split <;> rfl
  case drw => simp only [exec, execDrw, State.setSchedule_mem, State.setSchedule_base]; split <;> rfl
  case ldBVx => simp only [exec, execLdBVx, State.setSchedule_mem, State.setSchedule_base, State.setSchedule_reg]; split <;> rfl
  case ldMemVx =>
    simp only [exec, execLdMemVx, State.setSchedule_mem, State.setSchedule_base, State.setSchedule_regsUpTo]; split <;> rfl
  case ldVxMem => simp only [exec, execLdVxMem, State.setSchedule_mem, State.setSchedule_base]; split <;> rfl
  all_goals rfl

/-- So does the instruction cycle. -/
theorem instrCycle_setSchedule (s : State) : instrCycle (s.setSchedule es tl) = underSchedule es tl (instrCycle s) := by
  have hf : (s.setSchedule es tl).fetch = s.fetch := rfl
  unfold instrCycle
  rw [hf]
  split
  · rfl
  · exact exec_setSchedule es tl _ s

/-- So does every event, once it is taken. -/
theorem applyEvent_setSchedule (e : Event) (s : State) : applyEvent e (s.setSchedule es tl) = underSchedule es tl (applyEvent e s) := by
  cases e
  case step =>
    have he : (s.setSchedule es tl).stepEnabled = s.stepEnabled := rfl
    simp only [applyEvent, stepEvent, he, underSchedule_ite, instrCycle_setSchedule, underSchedule_next]
  case reset image => simp only [applyEvent, resetEvent, underSchedule_ite]; rfl
  case dtTick => by_cases hr : s.run = true <;> simp only [applyEvent, State.dtTick, State.setSchedule_run, hr] <;> rfl
  case stTick => by_cases hr : s.run = true <;> simp only [applyEvent, State.stTick, State.setSchedule_run, hr] <;> rfl
  all_goals rfl

/-- No event, once it is taken, changes the schedule. -/
theorem applyEvent_keeps_schedule {e : Event} {s t : State} (h : applyEvent e s = .next t) :
    t.events = s.events ∧ t.eventTail = s.eventTail := by
  have := applyEvent_setSchedule s.events s.eventTail e s
  rw [show s.setSchedule s.events s.eventTail = s from rfl, h, underSchedule_next] at this
  rw [Host.Outcome.next.inj this]
  exact ⟨rfl, rfl⟩

/-- A move under a list takes its head. -/
theorem step_setSchedule_cons (e : Event) (s : State) :
    step (s.setSchedule (e :: es) tl) = underSchedule es tl (applyEvent e s) := by
  rw [← applyEvent_setSchedule]; rfl

/-- A move under the free order takes its next event. -/
theorem step_setSchedule_free (n : Nat) (s : State) :
    step (s.setSchedule [] (.free n)) = underSchedule [] (.free (n + 1)) (applyEvent (Config.freeEvent n) s) := by
  rw [← applyEvent_setSchedule]; rfl

end Sys2Proof.Machine
end

