-- ==== Sys2Proof/Tests/Slice0.lean ====
section
/-! SUPPORT. The model's own tests. Expected values come from spec/95_test_vectors.md (the vector stands in the docstring) or, where it
says so, from the cited rule by hand. First the well-formedness checks, then decoding, then single steps, then for each obligation with
hypotheses the states and operands that meet them. -/

namespace Sys2Proof.Tests

open Sys2Proof Sys2Proof.Machine

/-! ## Helpers -/

/-- The running machine after reset, with some registers set. -/
def withRegs (l : List (RegIdx × Byte)) : State := l.foldl (fun s p => s.setReg p.1 p.2) { State.reset with run := true }

/-- The running machine after reset, with its schedule. -/
def withEvents (es : List Event) : State := { State.reset with run := true, events := es }

/-- The next state of a result. -/
def after (r : Result) : Option State :=
  match r with
  | .next t => some t
  | .fault _ => none
  | .refused _ => none

/-- What one step leaves with the word placed as the next instruction. -/
def runWord (s : State) (w : Nat) : Option State := after (step (s.withFetchWord 16 w))

/-- What one instruction leaves. -/
def runInstr (s : State) (i : Instr) : Option State := after (exec i s)

/-- Three registers, the one in the middle often `VF`, and `PC`. -/
def regs3 (a b c : RegIdx) (t : State) : Byte × Byte × Byte × Word := (t.reg a, t.reg b, t.reg c, t.pc)

/-- What a fault recorded, and `PC`. -/
def faultAndPc (t : State) : FaultReg × Word := (t.faultReg, t.pc)

/-! ## Well-formedness refuses (30_encoding.md R77, R78) -/

theorem test_sys_of_cls_word_refused : Instr.wellFormed (.sys 0x0E0) = false := by decide
theorem test_sys_of_ret_word_refused : Instr.wellFormed (.sys 0x0EE) = false := by decide
theorem test_unknown_of_known_words_refused :
    [0x00E0, 0x1234, 0x5AB0, 0x8ABE, 0x9AB0, 0xE19E, 0xF165].all (fun w => !Instr.wellFormed (.unknown w)) = true := by decide
theorem test_wellFormed_accepts : Instr.wellFormed (.sys 0x0E1) = true ∧ Instr.wellFormed (.unknown 0xFFFF) = true := by decide

/-! ## Decoding: T30, one word for every descriptor, then the boundary words -/

theorem test_decode_control :
    decode 0x00E0 = .cls ∧ decode 0x00EE = .ret ∧ decode 0x0123 = .sys 0x123 ∧ decode 0x1234 = .jp 0x234 ∧
    decode 0x2ABC = .call 0xABC ∧ decode 0xB123 = .jpV0 0x123 := by decide
theorem test_decode_skips :
    decode 0x3A7F = .seVxNn 10 0x7F ∧ decode 0x4B80 = .sneVxNn 11 0x80 ∧ decode 0x5AB0 = .seVxVy 10 11 ∧
    decode 0x9AB0 = .sneVxVy 10 11 ∧ decode 0xE19E = .skp 1 ∧ decode 0xE1A1 = .sknp 1 := by decide
theorem test_decode_alu :
    decode 0x6CFF = .ldVxNn 12 0xFF ∧ decode 0x7D01 = .addVxNn 13 0x01 ∧ decode 0x8EF0 = .ldVxVy 14 15 ∧
    decode 0x8121 = .orVxVy 1 2 ∧ decode 0x8122 = .andVxVy 1 2 ∧ decode 0x8123 = .xorVxVy 1 2 ∧
    decode 0x8014 = .addVxVy 0 1 ∧ decode 0x8125 = .subVxVy 1 2 ∧ decode 0x8AB6 = .shrVx 10 11 ∧
    decode 0x8127 = .subnVxVy 1 2 ∧ decode 0x8ABE = .shlVx 10 11 := by decide
theorem test_decode_index_random_display :
    decode 0xA300 = .ldINnn 0x300 ∧ decode 0xC7F0 = .rnd 7 0xF0 ∧ decode 0xD12F = .drw 1 2 15 := by decide
theorem test_decode_f_group :
    decode 0xF107 = .ldVxDt 1 ∧ decode 0xF10A = .ldVxK 1 ∧ decode 0xF115 = .ldDtVx 1 ∧ decode 0xF118 = .ldStVx 1 ∧
    decode 0xF11E = .addIVx 1 ∧ decode 0xF129 = .ldFVx 1 ∧ decode 0xF133 = .ldBVx 1 ∧ decode 0xF155 = .ldMemVx 1 ∧
    decode 0xF165 = .ldVxMem 1 := by decide
/-- T30-36 to T30-39. -/
theorem test_decode_sys_boundaries :
    decode 0x0000 = .sys 0 ∧ decode 0x00E1 = .sys 0x0E1 ∧ decode 0x00EF = .sys 0x0EF ∧ decode 0x0FFF = .sys 0xFFF := by decide
/-- T30-40 to T30-51. -/
theorem test_decode_unknown :
    [0x5AB1, 0x5ABF, 0x8AB8, 0x8ABD, 0x8ABF, 0x9AB5, 0xE19F, 0xE000, 0xF100, 0xF166, 0xF175, 0xFFFF].all
      (fun w => decode w = .unknown w) = true := by decide
/-- T30-24, T30-51: mnemonic, raw opcode and arguments. -/
theorem test_decodeRecord :
    decodeRecord 0xD12F = ⟨"DRW", 0xD12F, [1, 2, 15]⟩ ∧ decodeRecord 0xFFFF = ⟨"UNKNOWN", 0xFFFF, []⟩ := by decide
/-- T30-52: the high byte comes first; one byte alone is refused by name (R70). -/
theorem test_decodeBytes :
    decodeBytes [0x12, 0x34, 0x56] = .ok (.jp 0x234, [0x56]) ∧ decodeBytes [0x12] = .error .truncated := ⟨rfl, rfl⟩
theorem test_decodeTableWord : decodeTableWord 16 0x8014 = some (.addVxVy 0 1) ∧ decodeTableWord 32 0 = none := by decide

/-! ## Control transfer: T40 -/

/-- T40-1. -/
theorem test_jp : (runWord State.reset 0x1234).map (·.pc) = some 0x234 := by decide
/-- T40-4. -/
theorem test_call_at_14 :
    (runWord { State.reset with pc := 0x300, sp := 14 } 0x2400).map (fun t => (t.stackAt 15, t.sp, t.pc)) =
      some (0x302, 15, 0x400) := by decide
/-- T40-5. -/
theorem test_call_overflow :
    (runWord { State.reset with pc := 0x300, sp := 15 } 0x2400).map (fun t => (faultAndPc t, t.sp)) =
      some ((⟨.stackOverflow, 0⟩, 0x300), 15) := by decide
/-- T40-6. -/
theorem test_ret :
    (runWord { State.reset with pc := 0x214, sp := 0, stack := State.reset.stack.set 0 0x20A } 0x00EE).map
      (fun t => (t.pc, t.sp, t.stackAt 0)) = some (0x20A, 0b11111, 0x20A) := by decide
/-- T40-7. -/
theorem test_ret_underflow :
    (runWord State.reset 0x00EE).map (fun t => (faultAndPc t, t.sp)) = some ((⟨.stackUnderflow, 0⟩, 0x200), 0b11111) := by decide
/-- T40-9. -/
theorem test_jpV0_not_masked : (runWord (withRegs [(0, 0xFF)]) 0xBFFF).map (·.pc) = some 0x10FE := by decide
/-- T40-12. -/
theorem test_jpV0_reads_v0 : (runWord (withRegs [(1, 0x04)]) 0xB100).map (·.pc) = some 0x100 := by decide

/-! ## Skips: T41 -/

/-- T41-1, T41-2. -/
theorem test_seVxNn :
    (runWord (withRegs [(3, 0x42)]) 0x3342).map (·.pc) = some 0x204 ∧
    (runWord (withRegs [(3, 0x42)]) 0x3343).map (·.pc) = some 0x202 := by decide
/-- T41-3, T41-4. -/
theorem test_sneVxNn :
    (runWord (withRegs [(3, 0x42)]) 0x4342).map (·.pc) = some 0x202 ∧
    (runWord (withRegs [(3, 0x42)]) 0x4343).map (·.pc) = some 0x204 := by decide
/-- T41-5, T41-6. -/
theorem test_seVxVy :
    (runWord (withRegs [(1, 7), (2, 7)]) 0x5120).map (·.pc) = some 0x204 ∧
    (runWord (withRegs [(1, 7), (2, 8)]) 0x5120).map (·.pc) = some 0x202 := by decide
/-- T41-8, T41-9. -/
theorem test_sneVxVy :
    (runWord (withRegs [(1, 7), (2, 8)]) 0x9120).map (·.pc) = some 0x204 ∧
    (runWord (withRegs [(1, 7), (2, 7)]) 0x9120).map (·.pc) = some 0x202 := by decide
/-- T41-12. -/
theorem test_skip_to_the_end :
    (runWord { State.reset with pc := 0xFFC } 0x3000).map (·.pc) = some 0x1000 := by decide

/-! ## Loads and arithmetic: T42 -/

/-- T42-2. -/
theorem test_ldVxNn : (runWord State.reset 0x6F55).map (fun t => (t.reg vf, t.pc)) = some (0x55, 0x202) := by decide
/-- T42-3. -/
theorem test_addVxNn_no_flag :
    (runWord (withRegs [(0, 5), (15, 0x55)]) 0x70FF).map (regs3 0 15 1) = some (4, 0x55, 0, 0x202) := by decide
/-- T42-5. -/
theorem test_ldVxVy :
    (runWord (withRegs [(15, 1), (14, 0x77)]) 0x8EF0).map (regs3 14 15 0) = some (1, 1, 0, 0x202) := by decide
/-- T42-6. -/
theorem test_or :
    (runWord (withRegs [(1, 0xF0), (2, 0x0F), (15, 1)]) 0x8121).map (regs3 1 15 2) = some (0xFF, 1, 0x0F, 0x202) := by decide
/-- T42-7. -/
theorem test_and :
    (runWord (withRegs [(1, 0xF0), (2, 0x3C), (15, 1)]) 0x8122).map (regs3 1 15 2) = some (0x30, 1, 0x3C, 0x202) := by decide
/-- T42-8. -/
theorem test_xor :
    (runWord (withRegs [(1, 0xF0), (2, 0x3C), (15, 1)]) 0x8123).map (regs3 1 15 2) = some (0xCC, 1, 0x3C, 0x202) := by decide
/-- T42-9 (source S3), T42-10 (source S4). -/
theorem test_add_carry :
    (runWord (withRegs [(0, 250), (1, 10)]) 0x8014).map (regs3 0 15 1) = some (4, 1, 10, 0x202) ∧
    (runWord (withRegs [(0, 10), (1, 10), (15, 9)]) 0x8014).map (regs3 0 15 1) = some (20, 0, 10, 0x202) := by decide
/-- T42-12, T42-13: the destination or the second operand is `VF`. -/
theorem test_add_with_vf :
    (runWord (withRegs [(15, 5), (1, 0xFE)]) 0x8F14).map (regs3 15 1 0) = some (3, 0xFE, 0, 0x202) ∧
    (runWord (withRegs [(1, 0xFF), (15, 1)]) 0x81F4).map (regs3 1 15 0) = some (0, 1, 0, 0x202) := by decide
/-- T42-14, T42-16 (source S6). -/
theorem test_sub :
    (runWord (withRegs [(1, 0x40), (2, 0x40), (15, 9)]) 0x8125).map (regs3 1 15 2) = some (0, 0, 0x40, 0x202) ∧
    (runWord (withRegs [(0, 3), (1, 10)]) 0x8015).map (regs3 0 15 1) = some (249, 0, 10, 0x202) := by decide
/-- T42-24. -/
theorem test_sub_with_vf :
    (runWord (withRegs [(15, 9), (1, 4)]) 0x8F15).map (regs3 15 1 0) = some (5, 4, 0, 0x202) ∧
    (runWord (withRegs [(15, 9), (1, 4)]) 0x81F5).map (regs3 1 15 0) = some (0xFB, 0, 0, 0x202) := by decide
/-- T42-18, T42-19. -/
theorem test_subn :
    (runWord (withRegs [(1, 3), (2, 10)]) 0x8127).map (regs3 1 15 2) = some (7, 1, 10, 0x202) ∧
    (runWord (withRegs [(1, 0x40), (2, 0x40), (15, 9)]) 0x8127).map (regs3 1 15 2) = some (0, 0, 0x40, 0x202) := by decide
/-- T42-20 (source S7), T42-21. -/
theorem test_shr :
    (runWord (withRegs [(0, 3), (2, 0xAA)]) 0x8026).map (regs3 0 15 2) = some (1, 1, 0xAA, 0x202) ∧
    (runWord (withRegs [(15, 3)]) 0x8F06).map (regs3 15 0 1) = some (1, 0, 0, 0x202) := by decide
/-- T42-22, T42-23. -/
theorem test_shl :
    (runWord (withRegs [(2, 0x81)]) 0x820E).map (regs3 2 15 0) = some (2, 1, 0, 0x202) ∧
    (runWord (withRegs [(15, 0xC0)]) 0x8F0E).map (regs3 15 0 1) = some (0x80, 0, 0, 0x202) := by decide

/-! ## Index, font, random: T43 -/

/-- T43-2. -/
theorem test_ldINnn : (runWord State.reset 0xAFFF).map (·.index) = some 0x0FFF := by decide
/-- T43-4, T43-5. -/
theorem test_addIVx :
    (runWord { withRegs [(0, 1)] with index := 0x0FFF } 0xF01E).map (fun t => (t.index, t.reg vf)) = some (0x1000, 0) ∧
    (runWord { withRegs [(0, 0xFF)] with index := 0xFFF0 } 0xF01E).map (·.index) = some 0xFFFF := by decide
/-- T43-8, T43-9. -/
theorem test_ldFVx :
    (runWord (withRegs [(0, 0x1A)]) 0xF029).map (·.index) = some 0x0082 ∧
    (runWord (withRegs [(0, 0xFF)]) 0xF029).map (·.index) = some 0x04FB := by decide
/-- T43-10. -/
theorem test_rnd :
    (runWord { State.reset with randQueue := [0xA7, 0x11] } 0xC30F).map (fun t => (t.reg 3, t.randQueue)) =
      some (0x07, [0x11]) := by decide

/-! ## Display: T44 -/

/-- T44-1. -/
theorem test_cls :
    (runWord { withRegs [(15, 1)] with fb := Vector.replicate 32 (Vector.replicate 64 true) } 0x00E0).map
      (fun t => (decide (t.fb = State.reset.fb), t.reg vf)) = some (true, 1) := by decide
/-- T44-6, T44-7: clipped at the right edge and at the bottom. -/
theorem test_drw_clips :
    (runWord { withRegs [(1, 62)] with mem := [(0x300, 0xFF)], index := 0x300 } 0xD121).map
      (fun t => ([62, 63, 0].map fun c => t.fb.pixel c 0, t.fb.pixel 0 1, t.reg vf)) = some ([true, true, false], false, 0) ∧
    (runWord { withRegs [(2, 31)] with mem := [(0x300, 0x80), (0x301, 0x80)], index := 0x300 } 0xD122).map
      (fun t => (t.fb.pixel 0 31, t.fb.pixel 0 0, t.reg vf)) = some (true, false, 0) := by decide
/-- T44-4, T44-12: a collision, and a fault that writes nothing else. -/
theorem test_drw_collides_or_faults :
    (runWord { withRegs [(1, 10), (2, 5)] with
        mem := [(0x300, 0xF0)], index := 0x300, fb := (drawPixel State.reset.fb 12 5 true).1 } 0xD121).map
      (fun t => ([10, 11, 12, 13].map fun c => t.fb.pixel c 5, t.reg vf)) = some ([true, true, false, true], 1) ∧
    (runWord { withRegs [(15, 7)] with index := 0xFFE } 0xD123).map (fun t => (faultAndPc t, t.reg vf)) =
      some ((⟨.outOfRange, 0x1000⟩, 0x200), 7) := by decide

/-! ## Keypad: T45 -/

/-- T45-1, T45-3: the level, and no masking of 0x17 to 7. -/
theorem test_skp :
    (runWord (({ withRegs [(4, 7)] with klatch := some 9 } : State).setKey 7 true) 0xE49E).map (fun t => (t.pc, t.klatch)) =
      some (0x204, some 9) ∧
    (runWord ((withRegs [(4, 0x17)]).setKey 7 true) 0xE49E).map (·.pc) = some 0x202 := by decide
/-- T45-2, T45-3. -/
theorem test_sknp :
    (runWord ((withRegs [(4, 7)]).setKey 7 true) 0xE4A1).map (·.pc) = some 0x202 ∧
    (runWord ((withRegs [(4, 0x17)]).setKey 7 true) 0xE4A1).map (·.pc) = some 0x204 := by decide
/-- T45-4: the wait changes nothing. -/
theorem test_ldVxK_waits :
    (runInstr (withRegs [(3, 0xEE)]) (.ldVxK 3)).map (fun t => (t.pc, t.reg 3, t.klatch)) = some (0x200, 0xEE, none) := by decide
/-- T45-5: a press is delivered though the key is up again. -/
theorem test_ldVxK_takes :
    (runWord ((State.reset.keyDown 5).keyUp 5) 0xF00A).map (fun t => (t.reg 0, t.pc, t.klatch, t.keyPressed 5)) =
      some (0x05, 0x202, none, false) := by decide

/-! ## Timers: T46 -/

/-- T46-3. -/
theorem test_ldVxDt :
    (runWord { State.reset with dt := 0x3B } 0xF107).map (fun t => (t.reg 1, t.dt)) = some (0x3B, 0x3B) := by decide
/-- T46-1. -/
theorem test_ldDtVx : (runWord (withRegs [(0, 0x3C)]) 0xF015).map (·.dt) = some 0x3C := by decide
/-- T46-5. -/
theorem test_ldStVx : (runWord (withRegs [(5, 2)]) 0xF518).map (fun t => (t.st, t.sound)) = some (2, true) := by decide
/-- T46-4, T46-7: a tick, and no tick below 0; each timer alone. -/
theorem test_ticks :
    (after (step { withEvents [.dtTick] with dt := 0, st := 5 })).map (fun t => (t.dt, t.st)) = some (0, 5) ∧
    (after (step { withEvents [.stTick] with dt := 5, st := 5 })).map (fun t => (t.dt, t.st)) = some (5, 4) := by decide

/-! ## Memory transfer: T47 -/

/-- T47-1, T47-3: the digits, and a fault at the last two bytes of memory. -/
theorem test_ldBVx :
    (runWord { withRegs [(0, 0xFE)] with index := 0x300 } 0xF033).map (fun t => (t.mem.readBytes 0x300 3, t.index)) =
      some ([2, 5, 4], 0x300) ∧
    (runWord { withRegs [(0, 0x7B)] with index := 0xFFE } 0xF033).map (fun t => (faultAndPc t, t.mem.readBytes 0xFFE 2)) =
      some ((⟨.outOfRange, 0x1000⟩, 0x200), [0, 0]) := by decide
/-- T47-4. -/
theorem test_ldMemVx :
    (runWord { withRegs [(0, 0x11), (1, 0x22), (2, 0x33), (3, 0x44)] with index := 0x400 } 0xF255).map
      (fun t => (t.mem.readBytes 0x400 4, t.index)) = some ([0x11, 0x22, 0x33, 0], 0x402) := by decide
/-- T47-8. -/
theorem test_ldMemVx_faults :
    (runWord { State.reset with index := 0xFFE } 0xF255).map (fun t => (faultAndPc t, t.index)) =
      some ((⟨.outOfRange, 0x1000⟩, 0x200), 0xFFE) := by decide
/-- T47-7. -/
theorem test_ldVxMem :
    (runWord { State.reset with
        mem := [(0x400, 0x11), (0x401, 0x22), (0x402, 0x33), (0x403, 0x44)], index := 0x400 } 0xF265).map
      (fun t => ([0, 1, 2, 3].map t.reg, t.index)) = some ([0x11, 0x22, 0x33, 0], 0x402) := by decide
/-- T47-11. -/
theorem test_ldVxMem_faults :
    (runWord { withRegs [(0, 1)] with index := 0xFFFF } 0xFF65).map (fun t => (faultAndPc t, t.reg 0)) =
      some ((⟨.outOfRange, 0xFFFF⟩, 0x200), 1) := by decide

/-! ## No-ops, faults, reset, start and stop: T48, T60 -/

/-- T48-1. -/
theorem test_sys :
    runInstr (withRegs [(1, 2)]) (.sys 0x123) = some { withRegs [(1, 2)] with pc := 0x202 } := by decide
/-- T48-2. -/
theorem test_unknown :
    runInstr (withRegs [(1, 2)]) (.unknown 0x8AB9) = some { withRegs [(1, 2)] with pc := 0x202 } := by decide
/-- T60-1, T60-2: the last word of memory runs, a fetch at 0xFFF faults. -/
theorem test_fetch_at_the_end :
    (after (step { withEvents [] with pc := 0xFFE, mem := [(0xFFE, 0x60), (0xFFF, 0x01)] })).map (fun t => (t.reg 0, faultAndPc t)) =
      some (1, (⟨.none, 0⟩, 0x1000)) ∧
    (after (step { withEvents [] with pc := 0xFFF })).map faultAndPc = some (⟨.outOfRange, 0x1000⟩, 0xFFF) := by decide
/-- T60-4: after a fault a tick still acts and `start` does not clear it. -/
theorem test_after_a_fault :
    (after (step { withEvents [.dtTick] with faultReg := ⟨.outOfRange, 0x1000⟩, dt := 3 })).map (fun t => (t.dt, t.faultReg)) =
      some (2, ⟨.outOfRange, 0x1000⟩) ∧
    (after (step { withEvents [.start] with faultReg := ⟨.outOfRange, 0x1000⟩ })).map (·.faultReg) =
      some ⟨.outOfRange, 0x1000⟩ := by decide
/-- T60-5 with R55: `reset` loads the font and the ROM, and clears a fault. -/
theorem test_reset_event :
    (after (step { withEvents [.reset ⟨Config.defaultFont, [0x12, 0x34]⟩] with
        pc := 0x333, faultReg := ⟨.outOfRange, 0x1000⟩ })).map
      (fun t => (faultAndPc t, t.run, t.mem.readBytes 0x1FF 4, t.mem.readBytes 75 6)) =
      some ((⟨.none, 0⟩, 0x200), false, [0, 0x12, 0x34, 0], [0xF0, 0x80, 0xF0, 0x80, 0x80, 0]) := by decide
/-- R214: ticks come between steps in the order listed, and `step` events after them. -/
theorem test_order_of_events :
    (match core.run 3 { withEvents [.dtTick, .step] with dt := 3, mem := [(0x200, 0xF1), (0x201, 0x07)] } with
      | .next t => some (t.reg 1, t.dt, t.pc)
      | .fault _ => none
      | .refused _ => none) = some (2, 2, 0x204) := rfl
/-- R37: the 19 bits of `FAULT` with the cause above the address (log 8). -/
theorem test_fault_bits : FaultReg.bits ⟨.stackOverflow, 0x1234⟩ = 0x21234 := by decide

/-! ## Every obligation with hypotheses: states and operands that meet them -/

theorem met_DecodeOfEncodeIsTheInstruction :
    Instr.wellFormed (.sys 0x0E1) = true ∧ Instr.wellFormed (.drw 15 15 15) = true ∧ Instr.wellFormed (.unknown 0xF0FF) = true := by
  decide

theorem met_DecodeTakesTheFirstMatch :
    (∃ before d after, opcodeTable = before ++ d :: after ∧ (0x00EF : Word) &&& d.mask = d.code ∧
      ∀ e ∈ before, (0x00EF : Word) &&& e.mask ≠ e.code) ∧
    (∀ d ∈ opcodeTable, (0x8AB8 : Word) &&& d.mask ≠ d.code) :=
  ⟨⟨opcodeTable.take 2, ⟨"SYS", 0xF000, 0x0000, [argNNN], fun w => .sys (fieldNNN w)⟩, opcodeTable.drop 3, rfl,
    by decide, by decide⟩, by decide⟩

theorem met_OnlyClsAndRetOverlapSys :
    ∃ before d middle e after, opcodeTable = before ++ d :: middle ++ e :: after ∧
      (0x00E0 : Word) &&& d.mask = d.code ∧ (0x00E0 : Word) &&& e.mask = e.code :=
  ⟨[], ⟨"CLS", 0xFFFF, 0x00E0, [], fun _ => .cls⟩, [⟨"RET", 0xFFFF, 0x00EE, [], fun _ => .ret⟩],
    ⟨"SYS", 0xF000, 0x0000, [argNNN], fun w => .sys (fieldNNN w)⟩, opcodeTable.drop 3, rfl, by decide, by decide⟩

/-- At the last word of memory, with only `step` events to come and with `step` listed. -/
theorem met_StepRunsTheDecodedInstruction :
    Ready { withEvents [] with pc := 0xFFE, mem := [(0xFFE, 0x60), (0xFFF, 0x01)] } (.ldVxNn 0 1) ∧
    Ready { withEvents [.step, .dtTick] with mem := [(0x200, 0x12), (0x201, 0x34)] } (.jp 0x234) ∧
    (withEvents []).eventTail = .steps ∧ (withEvents []).nextEvent = .step ∧ (withEvents [.step, .dtTick]).nextEvent = .step :=
  ⟨⟨rfl, rfl, by decide, rfl⟩, ⟨rfl, rfl, by decide, rfl⟩, rfl, rfl, rfl⟩

/-- The first address whose second byte is outside memory, the first address outside, the last `PC`; nothing or `step` scheduled. -/
theorem met_FetchOutsideMemoryFaults :
    [0xFFF, 0x1000, 0xFFFF].all (fun pc => [[], [Event.step, .dtTick]].all fun es =>
      let s : State := { withEvents es with pc := pc }
      s.run = true ∧ s.faultReg.cause = .none ∧ 0x0FFE < s.pc.toNat ∧ s.nextEvent = .step) = true := by decide

theorem met_DisabledStepChangesNothing :
    (State.reset.run = false ∧ State.reset.nextEvent = .step) ∧
    (let s : State := { withEvents [.step] with faultReg := ⟨.stackOverflow, 0⟩ }
     s.faultReg.cause ≠ .none ∧ s.nextEvent = .step) := by decide

theorem met_PlacedWordRunsNext : State.reset.mem.wf ∧ (0xFFFF : Nat) < 65536 := by decide

/-- The two bytes stored are the last two of memory. -/
theorem met_StoreIsSeenByTheNextFetch :
    let s : State := { withEvents [] with pc := 0xFFC, index := 0xFFE }
    s.mem.wf ∧ 1 ≤ (1 : RegIdx).toNat ∧ s.index = s.pc + 2 ∧ s.index.toNat + (1 : RegIdx).toNat < 4096 ∧
      s.run = true ∧ s.faultReg.cause = .none ∧ s.nextEvent = .step ∧ ∃ t, exec (.ldMemVx 1) s = .next t :=
  ⟨by decide, by decide, by decide, by decide, rfl, rfl, rfl, _, rfl⟩

/-- A `ROM` of the longest length. -/
theorem met_EveryMoveHasANextState :
    ∀ image,
      (withEvents [.reset ⟨Config.defaultFont, List.replicate 3584 0⟩]).nextEvent = .reset image → image.rom.length ≤ 3584 := by
  intro image h
  rw [← Event.reset.inj h]
  exact Nat.le_of_eq List.length_replicate

/-- `SP` of −1 and 14 for the push, 15 for the fault. -/
theorem met_CallPushesTheReturnAddress :
    (∀ sp : BitVec 5, sp = 0b11111 ∨ sp = 14 → spLegal sp ∧ sp.toInt ≠ 15) ∧ (spLegal 15 ∧ (15 : BitVec 5).toInt = 15) := by
  unfold spLegal; decide

/-- `SP` of 0 and 15 for the pop, −1 for the fault. -/
theorem met_ReturnPopsTheReturnAddress :
    (∀ sp : BitVec 5, sp = 0 ∨ sp = 15 → spLegal sp ∧ sp.toInt ≠ -1) ∧
    (spLegal State.reset.sp ∧ State.reset.sp.toInt = -1) := by
  unfold spLegal; decide

theorem met_ReturnResumesAfterTheCall :
    ∃ t u : State, spLegal State.reset.sp ∧ State.reset.sp ≠ spFull ∧ exec (.call 0x300) State.reset = .next t ∧
      u.stack = t.stack ∧ u.sp = t.sp ∧ u.pc ≠ t.pc :=
  ⟨_, { (State.reset.push 0x202) with pc := 0x302 }, .inl rfl, by decide, rfl, rfl, rfl, by decide⟩

/-- No row at an `I` outside memory, and the last byte of memory. -/
theorem met_DrawTogglesTheSpritesPixels :
    ((0 : BitVec 4).toNat = 0 ∨ ({ State.reset with index := 0xFFFF } : State).index.toNat + (0 : BitVec 4).toNat ≤ 4096) ∧
    ((1 : BitVec 4).toNat = 0 ∨ ({ State.reset with index := 0xFFF } : State).index.toNat + (1 : BitVec 4).toNat ≤ 4096) := by
  decide

/-- The first byte of the font on the empty screen: no collision, and a pixel that is drawn. -/
theorem met_DrawTwiceRestoresTheScreen :
    ∃ t u, (1 : RegIdx) ≠ vf ∧ (2 : RegIdx) ≠ vf ∧ State.reset.index.toNat + (1 : BitVec 4).toNat ≤ 4096 ∧
      exec (.drw 1 2 1) State.reset = .next t ∧ exec (.drw 1 2 1) t = .next u ∧ t.reg vf = 0 ∧
      drawnBit State.reset (State.reset.reg 1).toNat (State.reset.reg 2).toNat (1 : BitVec 4).toNat 0 0 = true :=
  ⟨_, _, by decide, by decide, by decide, rfl, rfl, by decide, by decide⟩

/-- The last key code and the first byte that is none. -/
theorem met_KeySkipsFollowTheKeyLevel :
    16 ≤ ((withRegs [(4, 16)]).reg 4).toNat ∧ ((withRegs [(4, 15)]).reg 4).toNat < 16 := by decide

/-- A jump to itself. -/
theorem met_JumpGoesToItsOperand : State.reset.pc.toNat = (0x200 : BitVec 12).toNat := by decide

theorem met_IndexLoadsAddressAndGlyph :
    ∃ t, exec (.ldINnn 0) (State.reset.setIndex 1) = .next t ∧ t.index.toNat < (State.reset.setIndex 1).index.toNat :=
  ⟨_, rfl, by decide⟩

theorem met_DelayTimerTransfers : (withRegs [(0, 60)]).run = true := by decide

theorem met_KeyWaitTakesTheLatchedKey : State.reset.klatch = none ∧ (State.reset.keyDown 15).klatch = some 15 := by decide

theorem met_BcdStoresThreeDigits :
    let s : State := { State.reset with index := 0xFFD }
    s.mem.wf ∧ s.index.toNat + 2 < 4096 := by decide

/-- The block ends at the last byte of memory (the store and the load). -/
theorem met_BlockTransfers :
    let s : State := { State.reset with index := 0xFF0 }
    s.mem.wf ∧ s.index.toNat + (15 : RegIdx).toNat < 4096 := by decide

theorem met_StoreThenLoadRestoresTheRegisters :
    let s : State := { withRegs [(0, 1), (1, 2)] with index := 0xFFE }
    ∃ t u : State, s.mem.wf ∧ s.index.toNat + (1 : RegIdx).toNat < 4096 ∧ exec (.ldMemVx 1) s = .next t ∧
      u.mem = t.mem ∧ u.index = s.index ∧ u.reg 0 ≠ s.reg 0 :=
  ⟨_, { State.reset with mem := [(0xFFE, 1), (0xFFF, 2)], index := 0xFFE }, by decide, by decide, rfl, by decide, rfl, by decide⟩

theorem met_UnknownWordIsANoOp : ∀ d ∈ opcodeTable, (0x8AB9 : Word) &&& d.mask ≠ d.code := by decide

/-- One byte too many, and an `I` outside memory, for each of the four. -/
theorem met_DataAccessOutsideMemoryFaults :
    let at' (i : Word) : State := { State.reset with index := i }
    ((2 : BitVec 4).toNat ≠ 0 ∧ 4096 < (at' 0xFFF).index.toNat + (2 : BitVec 4).toNat) ∧
    ((1 : BitVec 4).toNat ≠ 0 ∧ 4096 < (at' 0x1000).index.toNat + (1 : BitVec 4).toNat) ∧
    4096 ≤ (at' 0xFFE).index.toNat + 2 ∧ 4096 ≤ (at' 0xFF1).index.toNat + (15 : RegIdx).toNat ∧
    4096 ≤ (at' 0x1000).index.toNat + (0 : RegIdx).toNat := by decide

/-- Each of the three causes, and an instruction with none. -/
theorem met_InstructionsFaultExactlyAsListed :
    (State.reset.faultReg.cause = .none) ∧
    (runInstr { State.reset with index := 0xFFE } (.ldBVx 0)).map (·.faultReg.cause) = some .outOfRange ∧
    (runInstr { State.reset with sp := 15 } (.call 0)).map (·.faultReg.cause) = some .stackOverflow ∧
    (runInstr State.reset .ret).map (·.faultReg.cause) = some .stackUnderflow ∧
    (runInstr { State.reset with index := 0xFFD } (.ldBVx 0)).map (·.faultReg.cause) = some .none := by decide

theorem met_FaultsArePrecise :
    let s : State := { withEvents [] with pc := 0x1000 }
    ∃ t, s.nextEvent = .step ∧ step s = .next t ∧ t.faultReg ≠ s.faultReg := ⟨_, rfl, rfl, by decide⟩

/-- A faulted machine whose next event is a tick, and one that is reset. -/
theorem met_FaultStaysUntilReset :
    (let s : State := { withEvents [.dtTick] with faultReg := ⟨.stackOverflow, 0⟩ }
     ∃ t, s.goneWrong ∧ step s = .next t) ∧
    (let s : State := { withEvents [.reset ⟨Config.defaultFont, []⟩] with faultReg := ⟨.stackOverflow, 0⟩ }
     ∃ t, s.goneWrong ∧ step s = .next t) :=
  ⟨⟨_, (by simp [State.goneWrong]), rfl⟩, ⟨_, (by simp [State.goneWrong]), rfl⟩⟩

/-- For the writers, and for the reads of `ST`: an instruction that writes each element. -/
theorem met_EachElementHasOnlyItsWriters :
    (runInstr State.reset (.ldINnn 1)).map (decide <| ·.index ≠ State.reset.index) = some true ∧
    (runInstr State.reset (.call 1)).map (fun t => decide (t.stack ≠ State.reset.stack ∧ t.sp ≠ State.reset.sp)) = some true ∧
    (runInstr (withRegs [(0, 1)]) (.ldDtVx 0)).map (decide <| ·.dt ≠ 0) = some true ∧
    (runInstr (withRegs [(0, 1)]) (.ldStVx 0)).map (decide <| ·.st ≠ 0) = some true ∧
    (runInstr (State.reset.setIndex 0x300) (.ldBVx 0)).map (decide <| ·.mem ≠ State.reset.mem) = some false ∧
    (runInstr ((withRegs [(0, 1)]).setIndex 0x300) (.ldBVx 0)).map (decide <| ·.mem ≠ State.reset.mem) = some true ∧
    (runInstr (withRegs []) (.drw 0 0 1)).map (decide <| ·.fb ≠ State.reset.fb) = some true ∧
    (runInstr (State.reset.keyDown 1) (.ldVxK 0)).map (decide <| ·.klatch ≠ some 1) = some true ∧
    (runInstr State.reset (.ldVxNn 15 1)).map (decide <| ·.reg vf ≠ 0) = some true := by decide

theorem met_SoundTimerIsNeverRead : ∃ t, exec (.ldStVx 0) (withRegs [(0, 1)]) = .next t := ⟨_, rfl⟩

theorem met_DelayTickCommutesWithOtherInstructions :
    let s : State := { withEvents [] with dt := 1 }
    (∀ x, Instr.cls ≠ .ldVxDt x) ∧ (∀ x, Instr.cls ≠ .ldDtVx x) ∧ ∃ t, exec .cls s = .next t :=
  ⟨by decide, by decide, _, rfl⟩

/-- For the statements on the ticks, the key events, `start` and `stop`. -/
theorem met_EventStatements :
    [Event.dtTick, .stTick, .keyDown 15, .keyUp 0, .start, .stop].all (fun e =>
      (withEvents [e, .step]).nextEvent = e ∧ ({ State.reset with events := [e] } : State).nextEvent = e) = true := by decide

/-- The longest `ROM`, and one byte more. -/
theorem met_ResetLeavesTheResetState :
    ∃ longest tooLong : ResetImage, longest.rom.length ≤ 3584 ∧ 3584 < tooLong.rom.length ∧
      (withEvents [.reset longest]).nextEvent = .reset longest ∧
      (withEvents [.reset tooLong]).nextEvent = .reset tooLong :=
  ⟨⟨Config.defaultFont, List.replicate 3584 0⟩, ⟨Config.defaultFont, List.replicate 3585 0⟩,
    Nat.le_of_eq List.length_replicate, Nat.lt_of_lt_of_eq (by decide) List.length_replicate.symm, rfl, rfl⟩

/-- The end of program P1 (T40-2), with the sound on. -/
def selfJump : State := { withEvents [] with pc := 0x20C, mem := [(0x20C, 0x12), (0x20D, 0x0C)], st := 5 }

theorem met_FinishedStateIsAFixedPoint : selfJump.finished ∧ selfJump.nextEvent = .step := ⟨⟨0x20C, by decide, rfl⟩, rfl⟩

/-- A running machine inside a subroutine. -/
theorem met_EveryMoveKeepsTheInvariant :
    let s : State := { withEvents [] with
      pc := 0x210, sp := 0, stack := State.reset.stack.set 0 0x20A, mem := [(0x211, 0xEE)] }
    s.Inv ∧ ∃ t, step s = .next t :=
  ⟨⟨by decide, .inr (by decide), by decide, by decide, rfl⟩, _, rfl⟩

theorem met_EventsComeInTheScheduledOrder :
    (withEvents [.dtTick, .step]).events = .dtTick :: [.step] ∧
    ((withEvents []).events = [] ∧ (withEvents []).eventTail = .steps) ∧
    (let s : State := { withEvents [] with eventTail := .free 3 }; s.events = [] ∧ s.eventTail = .free 3) := by decide

/-- An order of ticks and key events, and, whatever the free order says, no move of it. -/
theorem met_MachinePlaysEveryOrder :
    (∃ u, playFrom (fun j => if j % 2 = 0 then .dtTick else .keyDown 3) 0 2 { withEvents [] with dt := 2 } = .next u ∧
      u.dt = 1 ∧ u.klatch = some 3) ∧
    playFrom Config.freeEvent 0 0 State.reset = .next State.reset := ⟨⟨_, rfl, rfl, rfl⟩, rfl⟩

/-- A finished program and a faulted machine, and an order in which both ticks keep coming between the steps. -/
theorem met_TimersRunOutUnderEveryFairOrder :
    let order : Nat → Event := fun j => if j % 3 = 0 then .step else if j % 3 = 1 then .dtTick else .stTick
    let f : State := { withEvents [] with faultReg := ⟨.stackOverflow, 0⟩ }
    selfJump.finished ∧ selfJump.run = true ∧ f.goneWrong ∧ f.run = true ∧ (∀ j, order j ≠ .stop) ∧ (∀ j image, order j ≠ .reset image) ∧
      Endlessly order .dtTick ∧ Endlessly order .stTick := by
  intro order f
  refine ⟨met_FinishedStateIsAFixedPoint.1, rfl, (by simp [f, State.goneWrong]), rfl, ?_, ?_, fun n => ⟨3 * n + 1, by omega, ?_⟩,
    fun n => ⟨3 * n + 2, by omega, ?_⟩⟩
  · intro j; simp only [order]; split <;> [simp; (split <;> simp)]
  · intro j image; simp only [order]; split <;> [simp; (split <;> simp)]
  · simp only [order]; rw [if_neg (by omega), if_pos (by omega)]
  · simp only [order]; rw [if_neg (by omega), if_neg (by omega)]

end Sys2Proof.Tests
end

/-! PROOFS. `decode` as R73 says it: the first matching descriptor makes the instruction, and where none matches the word is
unknown; each row's instruction carries the row's name (30_encoding.md R72, R73, R76). -/

namespace Sys2Proof

theorem OpcodeDescriptor.matchesWord_iff (d : OpcodeDescriptor) (w : Word) : d.matchesWord w = true ↔ w &&& d.mask = d.code :=
  decide_eq_true_iff

/-- Each row's instruction has the row's name as its mnemonic (R72, R76). -/
theorem opcodeTable_mnemonic (d : OpcodeDescriptor) (hd : d ∈ opcodeTable) (w : Word) : (d.make w).mnemonic = d.name := by
  have rows : ∀ d ∈ opcodeTable, (d.make w).mnemonic = d.name := by
    simp only [opcodeTable, opcodeRows0to7, opcodeRows8to9, opcodeRowsAtoE, opcodeRowsF, List.cons_append, List.nil_append,
      List.forall_mem_cons, Instr.mnemonic, List.not_mem_nil, false_implies, implies_true, and_self]
  exact rows d hd

/-- The descriptor that matches with none before it matching makes the instruction (R73). -/
theorem decode_of_first_match {w : Word} {before after : List OpcodeDescriptor} {d : OpcodeDescriptor}
    (htable : opcodeTable = before ++ d :: after) (hd : w &&& d.mask = d.code) (hbefore : ∀ e ∈ before, w &&& e.mask ≠ e.code) :
    decode w = d.make w := by
  have hfind : opcodeTable.find? (·.matchesWord w) = some d :=
    List.find?_eq_some_iff_append.mpr ⟨(d.matchesWord_iff w).mpr hd, before, after, htable, fun e he => by
      rw [Bool.not_eq_true', ← Bool.not_eq_true, e.matchesWord_iff]; exact hbefore e he⟩
  simp only [decode, hfind]

/-- A word that no descriptor matches is unknown (R73, R78). -/
theorem decode_of_no_match {w : Word} (h : ∀ d ∈ opcodeTable, w &&& d.mask ≠ d.code) : decode w = .unknown w := by
  have hfind : opcodeTable.find? (·.matchesWord w) = none :=
    List.find?_eq_none.mpr fun d hd hm => h d hd ((d.matchesWord_iff w).mp hm)
  simp only [decode, hfind]

/-- Settles O3: the decoded instruction is the one the first matching row makes, and that row's name and ArgumentSpecs give the
record's mnemonic and arguments. -/
theorem decodeTakesTheFirstMatch : Obligations.DecodeTakesTheFirstMatch := by
  intro w
  constructor
  · intro before d after htable hd hbefore
    have hmem : d ∈ opcodeTable := htable ▸ List.mem_append_right before List.mem_cons_self
    rw [decodeRecord, decode_of_first_match htable hd hbefore, opcodeTable_mnemonic d hmem, opcodeTable_args d hmem]
    rfl
  · intro hnone
    rw [decodeRecord, decode_of_no_match hnone]
    rfl

end Sys2Proof

/-! PROOFS. A row is the first to match a word when every row before it has another opcode nibble, since every mask holds that nibble
whole (30_encoding.md R73, R76); JP (40_control_transfer.md R101). -/

namespace Sys2Proof

/-- Every mask of the table holds the opcode nibble whole (R76). -/
theorem opcodeTable_mask_nibble3 : ∀ d ∈ opcodeTable, d.mask.extractLsb' 12 4 = BitVec.allOnes 4 := by decide

/-- A row that matches a word has the word's opcode nibble. -/
theorem code_nibble3_of_match {d : OpcodeDescriptor} {w : Word} (hmem : d ∈ opcodeTable) (hd : w &&& d.mask = d.code) :
    d.code.extractLsb' 12 4 = w.extractLsb' 12 4 := by
  rw [← hd, BitVec.extractLsb'_and, opcodeTable_mask_nibble3 d hmem, BitVec.and_allOnes]

/-- The word of an instruction decodes by the row of its name when the rows before have other opcode nibbles. -/
theorem decode_encode_of_row {i : Instr} {before after : List OpcodeDescriptor} {d : OpcodeDescriptor}
    (htable : opcodeTable = before ++ d :: after) (hmatch : Laws.EncodeMatches.Statement i) (hname : d.name = i.mnemonic)
    (hbefore : ∀ e ∈ before, e.code.extractLsb' 12 4 ≠ (encode i).extractLsb' 12 4) :
    decode (encode i) = d.make (encode i) := by
  have hmem : d ∈ opcodeTable := htable ▸ List.mem_append_right before List.mem_cons_self
  refine decode_of_first_match htable ((d.matchesWord_iff _).mp (hmatch d hmem hname)) fun e he hmatches => ?_
  exact hbefore e he (code_nibble3_of_match (htable ▸ List.mem_append_left _ he) hmatches)

@[simp] theorem encodeA_nibble3 (op : BitVec 4) (nnn : BitVec 12) : (encodeA op nnn).extractLsb' 12 4 = op := by
  rw [encodeA_eq, encodeXY_nibble3]

/-- Only CLS, RET and SYS stand before JP, all with opcode nibble 0. -/
theorem decode_encodeA_jp (nnn : BitVec 12) : decode (encodeA 0x1 nnn) = .jp nnn := by
  have hnibble : ∀ e ∈ opcodeTable.take 3, e.code.extractLsb' 12 4 ≠ 0x1 := by decide
  have hrow := decode_encode_of_row (before := opcodeTable.take 3) (i := .jp nnn) rfl (Laws.EncodeMatches.jp nnn) rfl
    (by simpa only [encode, encodeA_nibble3] using hnibble)
  simpa only [encode, fieldNNN_encodeA] using hrow

namespace Machine

theorem exec_jp (nnn : BitVec 12) (s : State) : exec (.jp nnn) s = .next (s.jump (addrOperand nnn)) := rfl

/-- Setting `PC` changes nothing else. -/
theorem State.sameBut_jump (s : State) (target : Word) : SameBut [.pc] s (s.jump target) := by
  constructor
  case pc => exact fun h => absurd (List.mem_singleton_self _) h
  all_goals simp

theorem State.jump_self (s : State) : s.jump s.pc = s := rfl

/-- An operand names a fetch outside memory only at the last address (20_memory.md R56). -/
theorem operand_fetch_outside_iff (nnn : BitVec 12) : 4096 < nnn.toNat + 2 ↔ nnn = 0xFFF := by
  have hlt := nnn.isLt
  rw [← BitVec.toNat_inj, show (0xFFF : BitVec 12).toNat = 4095 from rfl]
  omega

/-- Settles O13: JP sets `PC` to its zero-extended operand and nothing else, so a jump to `PC` itself gives the state back. -/
theorem jumpGoesToItsOperand : Obligations.JumpGoesToItsOperand := by
  intro nnn s
  refine ⟨decode_encodeA_jp nnn, _, exec_jp nnn s, ?_, s.sameBut_jump _, ?_, fun hself => ?_⟩
  · rw [State.jump_pc, addrOperand_toNat]
  · rw [State.jump_pc, addrOperand_toNat]
    exact operand_fetch_outside_iff nnn
  · have htarget : addrOperand nnn = s.pc := BitVec.eq_of_toNat_eq (by rw [addrOperand_toNat, hself])
    rw [htarget, State.jump_self]

end Machine

end Sys2Proof

/-! PROOFS. The register skips decode by the first row of their opcode nibble, and all go on by `State.skipIf` with their own compare
(41_conditional_skip.md R110 to R113). -/

namespace Sys2Proof

@[simp] theorem encodeXI_nibble3 (op : BitVec 4) (x : RegIdx) (nn : Byte) : (encodeXI op x nn).extractLsb' 12 4 = op := by
  rw [encodeXI_eq, encodeXY_nibble3]

/-- A word decodes to its instruction by a row that has the name and gives back the operands, when the rows before have other opcode
nibbles. -/
theorem decode_encode_of_nibble {i : Instr} {op : BitVec 4} {before after : List OpcodeDescriptor} {d : OpcodeDescriptor}
    (htable : opcodeTable = before ++ d :: after) (hmatch : Laws.EncodeMatches.Statement i) (hname : d.name = i.mnemonic)
    (hop : (encode i).extractLsb' 12 4 = op) (hbefore : ∀ e ∈ before, e.code.extractLsb' 12 4 ≠ op)
    (hmake : d.make (encode i) = i) : decode (encode i) = i :=
  (decode_encode_of_row htable hmatch hname (hop ▸ hbefore)).trans hmake

theorem decode_encodeXI_seVxNn (x : RegIdx) (nn : Byte) : decode (encodeXI 0x3 x nn) = .seVxNn x nn :=
  decode_encode_of_nibble (i := .seVxNn x nn) (before := opcodeTable.take 5) rfl (Laws.EncodeMatches.seVxNn x nn) rfl
    (encodeXI_nibble3 0x3 x nn) (by decide) (congrArg₂ Instr.seVxNn (fieldX_encodeXI 0x3 x nn) (fieldNN_encodeXI 0x3 x nn))

theorem decode_encodeXI_sneVxNn (x : RegIdx) (nn : Byte) : decode (encodeXI 0x4 x nn) = .sneVxNn x nn :=
  decode_encode_of_nibble (i := .sneVxNn x nn) (before := opcodeTable.take 6) rfl (Laws.EncodeMatches.sneVxNn x nn) rfl
    (encodeXI_nibble3 0x4 x nn) (by decide) (congrArg₂ Instr.sneVxNn (fieldX_encodeXI 0x4 x nn) (fieldNN_encodeXI 0x4 x nn))

theorem decode_encodeXY_seVxVy (x y : RegIdx) : decode (encodeXY 0x5 x y 0x0) = .seVxVy x y :=
  decode_encode_of_nibble (i := .seVxVy x y) (before := opcodeTable.take 7) rfl (Laws.EncodeMatches.seVxVy x y) rfl
    (encodeXY_nibble3 0x5 x y 0x0) (by decide) (congrArg₂ Instr.seVxVy (fieldX_encodeXY 0x5 x y 0x0) (fieldY_encodeXY 0x5 x y 0x0))

theorem decode_encodeXY_sneVxVy (x y : RegIdx) : decode (encodeXY 0x9 x y 0x0) = .sneVxVy x y :=
  decode_encode_of_nibble (i := .sneVxVy x y) (before := opcodeTable.take 19) rfl (Laws.EncodeMatches.sneVxVy x y) rfl
    (encodeXY_nibble3 0x9 x y 0x0) (by decide) (congrArg₂ Instr.sneVxVy (fieldX_encodeXY 0x9 x y 0x0) (fieldY_encodeXY 0x9 x y 0x0))

namespace Machine

theorem exec_seVxNn (x : RegIdx) (nn : Byte) (s : State) :
    exec (.seVxNn x nn) s = .next (s.skipIf (decide (s.reg x = nn))) := rfl
theorem exec_sneVxNn (x : RegIdx) (nn : Byte) (s : State) :
    exec (.sneVxNn x nn) s = .next (s.skipIf (decide (s.reg x ≠ nn))) := rfl
theorem exec_seVxVy (x y : RegIdx) (s : State) :
    exec (.seVxVy x y) s = .next (s.skipIf (decide (s.reg x = s.reg y))) := rfl
theorem exec_sneVxVy (x y : RegIdx) (s : State) :
    exec (.sneVxVy x y) s = .next (s.skipIf (decide (s.reg x ≠ s.reg y))) := rfl

/-- A skip, taken or not, changes nothing but `PC`. -/
theorem State.sameBut_skipIf (s : State) (c : Bool) : SameBut [.pc] s (s.skipIf c) := by
  constructor
  case pc => exact fun h => absurd (List.mem_singleton_self _) h
  all_goals simp

/-- An instruction that skips on equal bytes goes on at `PC + 4` for bytes of the same value and else at `PC + 2`. -/
theorem goesOn_of_skipIf_eq {i : Instr} {s : State} {a b : Byte} (hexec : exec i s = .next (s.skipIf (decide (a = b)))) :
    ∃ t, exec i s = .next t ∧ t.pc = (if a.toNat = b.toNat then s.pc + 4 else s.pc + 2) ∧ SameBut [.pc] s t := by
  refine ⟨_, hexec, ?_, s.sameBut_skipIf _⟩
  simp only [State.skipIf_pc, decide_eq_true_iff, BitVec.toNat_inj]

/-- An instruction that skips on different bytes goes on at `PC + 2` for bytes of the same value and else at `PC + 4`. -/
theorem goesOn_of_skipIf_ne {i : Instr} {s : State} {a b : Byte} (hexec : exec i s = .next (s.skipIf (decide (a ≠ b)))) :
    ∃ t, exec i s = .next t ∧ t.pc = (if a.toNat = b.toNat then s.pc + 2 else s.pc + 4) ∧ SameBut [.pc] s t := by
  refine ⟨_, hexec, ?_, s.sameBut_skipIf _⟩
  simp only [State.skipIf_pc, decide_eq_true_iff, ne_eq, ite_not, BitVec.toNat_inj]

/-- Settles O18: each word decodes to its skip, and the skip's compare of two bytes alone chooses where `PC` goes on. -/
theorem registerSkipsFollowTheirCompare : Obligations.RegisterSkipsFollowTheirCompare := by
  intro x y nn s
  exact ⟨⟨decode_encodeXI_seVxNn x nn, goesOn_of_skipIf_eq (exec_seVxNn x nn s)⟩,
    ⟨decode_encodeXI_sneVxNn x nn, goesOn_of_skipIf_ne (exec_sneVxNn x nn s)⟩,
    ⟨decode_encodeXY_seVxVy x y, goesOn_of_skipIf_eq (exec_seVxVy x y s)⟩,
    ⟨decode_encodeXY_sneVxVy x y, goesOn_of_skipIf_ne (exec_sneVxVy x y s)⟩⟩

end Machine

end Sys2Proof

/-! PROOFS. The two register loads decode by the first row of their opcode nibble, and both end as every instruction that only writes
`V[x]` and advances (42_load_alu.md R120, R122). -/

namespace Sys2Proof

theorem decode_encodeXI_ldVxNn (x : RegIdx) (nn : Byte) : decode (encodeXI 0x6 x nn) = .ldVxNn x nn :=
  decode_encode_of_nibble (i := .ldVxNn x nn) (before := opcodeTable.take 8) rfl (Laws.EncodeMatches.ldVxNn x nn) rfl
    (encodeXI_nibble3 0x6 x nn) (by decide) (congrArg₂ Instr.ldVxNn (fieldX_encodeXI 0x6 x nn) (fieldNN_encodeXI 0x6 x nn))

theorem decode_encodeXY_ldVxVy (x y : RegIdx) : decode (encodeXY 0x8 x y 0x0) = .ldVxVy x y :=
  decode_encode_of_nibble (i := .ldVxVy x y) (before := opcodeTable.take 10) rfl (Laws.EncodeMatches.ldVxVy x y) rfl
    (encodeXY_nibble3 0x8 x y 0x0) (by decide) (congrArg₂ Instr.ldVxVy (fieldX_encodeXY 0x8 x y 0x0) (fieldY_encodeXY 0x8 x y 0x0))

namespace Machine

theorem exec_ldVxNn (x : RegIdx) (nn : Byte) (s : State) : exec (.ldVxNn x nn) s = writeReg x nn s := rfl
theorem exec_ldVxVy (x y : RegIdx) (s : State) : exec (.ldVxVy x y) s = writeReg x (s.reg y) s := rfl

/-- Writing a register and advancing changes nothing but registers and `PC`. -/
theorem State.sameBut_setReg_advance (s : State) (x : RegIdx) (b : Byte) : SameBut [.regs, .pc] s (s.setReg x b).advance := by
  constructor
  case regs => exact fun h => absurd List.mem_cons_self h
  case pc => exact fun h => absurd (List.mem_cons_of_mem _ List.mem_cons_self) h
  all_goals simp

/-- Of the registers only the one written differs, and it holds the written byte. -/
theorem State.writesOnly_setReg_advance (s : State) (x : RegIdx) (b : Byte) : WritesOnly x b s (s.setReg x b).advance := by
  refine ⟨?_, fun r hr => ?_, ?_, s.sameBut_setReg_advance x b⟩
  · rw [State.advance_reg, State.reg_setReg, if_pos rfl]
  · rw [State.advance_reg, State.reg_setReg, if_neg hr]
  · rw [State.advance_pc, State.setReg_pc]

/-- An instruction that answers `writeReg` writes that register and nothing else. -/
theorem writesOnly_of_writeReg {i : Instr} {s : State} {x : RegIdx} {b : Byte} (hexec : exec i s = writeReg x b s) :
    ∃ t, exec i s = .next t ∧ WritesOnly x b s t :=
  ⟨_, hexec, s.writesOnly_setReg_advance x b⟩

/-- Settles O19: each word decodes to its load, and both loads are `writeReg`, of the immediate byte or of `V[y]` as it was. -/
theorem registerLoadsWriteTheirOperand : Obligations.RegisterLoadsWriteTheirOperand := by
  intro x y nn s
  exact ⟨⟨decode_encodeXI_ldVxNn x nn, writesOnly_of_writeReg (exec_ldVxNn x nn s)⟩,
    ⟨decode_encodeXY_ldVxVy x y, writesOnly_of_writeReg (exec_ldVxVy x y s)⟩⟩

end Machine

end Sys2Proof

/-! PROOFS. Two rows that match one word agree under both masks, so a row is the first to match its words when no row before it does;
LD I, nnn and LD F, Vx decode by such rows and both answer `writeIndex`, and every other instruction leaves `I` or raises it
(43_index_random.md R140, R143). -/

namespace Sys2Proof

/-- Rows that match the same word have codes that agree under both masks. -/
theorem codes_agree_of_match {d e : OpcodeDescriptor} {w : Word} (hd : w &&& d.mask = d.code) (he : w &&& e.mask = e.code) :
    d.code &&& e.mask = e.code &&& d.mask := by
  rw [← hd, ← he, BitVec.and_assoc, BitVec.and_assoc, BitVec.and_comm d.mask]

/-- A word decodes to its instruction by a row that has the name and gives back the operands, when the rows before have codes that do
not agree with the row's own under both masks. -/
theorem decode_encode_of_codes {i : Instr} {before after : List OpcodeDescriptor} {d : OpcodeDescriptor}
    (htable : opcodeTable = before ++ d :: after) (hmatch : Laws.EncodeMatches.Statement i) (hname : d.name = i.mnemonic)
    (hbefore : ∀ e ∈ before, d.code &&& e.mask ≠ e.code &&& d.mask) (hmake : d.make (encode i) = i) : decode (encode i) = i := by
  have hd : encode i &&& d.mask = d.code :=
    (d.matchesWord_iff _).mp (hmatch d (htable ▸ List.mem_append_right before List.mem_cons_self) hname)
  exact (decode_of_first_match htable hd fun e he hmatches => hbefore e he (codes_agree_of_match hd hmatches)).trans hmake

theorem decode_encodeA_ldINnn (nnn : BitVec 12) : decode (encodeA 0xA nnn) = .ldINnn nnn :=
  decode_encode_of_codes (i := .ldINnn nnn) (before := opcodeTable.take 20) rfl (Laws.EncodeMatches.ldINnn nnn) rfl (by decide)
    (congrArg Instr.ldINnn (fieldNNN_encodeA 0xA nnn))

theorem decode_encodeX_ldFVx (x : RegIdx) : decode (encodeX 0xF x 0x29) = .ldFVx x :=
  decode_encode_of_codes (i := .ldFVx x) (before := opcodeTable.take 31) rfl (Laws.EncodeMatches.ldFVx x) rfl (by decide)
    (congrArg Instr.ldFVx (fieldX_encodeX 0xF x 0x29))

namespace Machine

theorem exec_ldINnn (nnn : BitVec 12) (s : State) : exec (.ldINnn nnn) s = writeIndex (addrOperand nnn) s := rfl
theorem exec_ldFVx (x : RegIdx) (s : State) : exec (.ldFVx x) s = writeIndex (glyphAddr (s.reg x)) s := rfl

/-- Writing `I` and advancing changes nothing but `I` and `PC`. -/
theorem State.sameBut_setIndex_advance (s : State) (w : Word) : SameBut [.index, .pc] s (s.setIndex w).advance := by
  constructor
  case index => exact fun h => absurd List.mem_cons_self h
  case pc => exact fun h => absurd (List.mem_cons_of_mem _ List.mem_cons_self) h
  all_goals simp

/-- An instruction that answers `writeIndex` leaves that word in `I`, goes on by 2 and changes nothing else. -/
theorem writesIndex_of_writeIndex {i : Instr} {s : State} {w : Word} {n : Nat} (hexec : exec i s = writeIndex w s) (hw : w.toNat = n) :
    ∃ t, exec i s = .next t ∧ t.index.toNat = n ∧ t.pc = s.pc + 2 ∧ SameBut [.index, .pc] s t :=
  ⟨_, hexec, hw, rfl, s.sameBut_setIndex_advance w⟩

/-- A block store within memory writes `V[0]` to `V[x]` and moves `I` on by `x` (R181); any other faults (60_exceptions.md R201). -/
theorem exec_ldMemVx_cases (x : RegIdx) (s : State) :
    (s.base + (x.toNat + 1) ≤ Config.memSize ∧
      exec (.ldMemVx x) s = .next ((s.setMem (s.mem.writeBytes s.base (s.regsUpTo x))).moveIndex x).advance) ∨
    (Config.memSize < s.base + (x.toNat + 1) ∧
      exec (.ldMemVx x) s = .next (s.setFault ⟨.outOfRange, sat16 (max s.base Config.memSize)⟩)) := by
  simp only [exec, execLdMemVx]
  obtain ⟨hin, hw⟩ | ⟨⟨-, hout⟩, hw⟩ := memWriteN_cases s.mem s.base (s.regsUpTo x)
  · rw [State.regsUpTo_length] at hin
    exact .inl ⟨hin.resolve_left (Nat.succ_ne_zero _), by rw [hw]⟩
  · rw [State.regsUpTo_length] at hout
    exact .inr ⟨hout, by rw [hw]; rfl⟩

/-- A block load within memory reads `V[0]` to `V[x]` and moves `I` on by `x` (R182); any other faults (60_exceptions.md R201). -/
theorem exec_ldVxMem_cases (x : RegIdx) (s : State) :
    (s.base + (x.toNat + 1) ≤ Config.memSize ∧
      exec (.ldVxMem x) s =
        .next ((s.setRegs (setRegsFrom s.v 0 (s.mem.readBytes s.base (x.toNat + 1)))).moveIndex x).advance) ∨
    (Config.memSize < s.base + (x.toNat + 1) ∧
      exec (.ldVxMem x) s = .next (s.setFault ⟨.outOfRange, sat16 (max s.base Config.memSize)⟩)) := by
  simp only [exec, execLdVxMem]
  obtain ⟨hin, hr⟩ | ⟨⟨-, hout⟩, hr⟩ := memReadN_cases s.mem s.base (x.toNat + 1)
  · exact .inl ⟨hin.resolve_left (Nat.succ_ne_zero _), by rw [hr]⟩
  · exact .inr ⟨hout, by rw [hr]; rfl⟩

/-- What an instruction does to `I` (10_state.md R28): it leaves it, loads it, or moves it up by a saturating sum. -/
theorem exec_index_cases {i : Instr} {s t : State} (h : exec i s = .next t) :
    t.index = s.index ∨ (∃ nnn, i = .ldINnn nnn) ∨ (∃ x, i = .ldFVx x) ∨
      ((∃ x, i = .addIVx x ∨ i = .ldMemVx x ∨ i = .ldVxMem x) ∧ ∃ n, t.index = sat16 (s.base + n)) := by
  cases i
  case ldINnn nnn => exact .inr (.inl ⟨nnn, rfl⟩)
  case ldFVx x => exact .inr (.inr (.inl ⟨x, rfl⟩))
  case addIVx x => cases h; exact .inr (.inr (.inr ⟨⟨x, .inl rfl⟩, _, rfl⟩))
  case ldMemVx x =>
    obtain ⟨-, hexec⟩ | ⟨-, hexec⟩ := exec_ldMemVx_cases x s
    · cases hexec.symm.trans h; exact .inr (.inr (.inr ⟨⟨x, .inr (.inl rfl)⟩, _, rfl⟩))
    · cases hexec.symm.trans h; exact .inl rfl
  case ldVxMem x =>
    obtain ⟨-, hexec⟩ | ⟨-, hexec⟩ := exec_ldVxMem_cases x s
    · cases hexec.symm.trans h; exact .inr (.inr (.inr ⟨⟨x, .inr (.inr rfl)⟩, _, rfl⟩))
    · cases hexec.symm.trans h; exact .inl rfl
  all_goals left
  case rnd => cases h; simp
  case seVxNn | sneVxNn | seVxVy | sneVxVy | skp | sknp => cases h; exact State.skipIf_index s _
  case ret => simp only [exec, execRet] at h; split at h <;> cases h <;> rfl
  case call => simp only [exec, execCall] at h; split at h <;> cases h <;> rfl
  case ldVxK => simp only [exec, execLdVxK] at h; split at h <;> cases h <;> rfl
  case drw => simp only [exec, execDrw] at h; split at h <;> cases h <;> rfl
  case ldBVx => simp only [exec, execLdBVx] at h; split at h <;> cases h <;> rfl
  all_goals cases h; rfl

/-- A saturating sum that starts from `I` is not below it. -/
theorem State.index_le_sat16_add (s : State) (n : Nat) : s.index.toNat ≤ (sat16 (s.base + n)).toNat := by
  rw [sat16_toNat]
  exact le_min (Nat.le_add_right s.base n) (Nat.le_of_lt_succ s.base_lt)

/-- Settles O25: both loads are `writeIndex` of a word known as a number, and an instruction that is neither leaves `I` or moves it up
by a saturating sum. -/
theorem indexLoadsAddressAndGlyph : Obligations.IndexLoadsAddressAndGlyph := by
  refine ⟨fun i s t hexec hlower => ?_, fun nnn x s => ⟨⟨decode_encodeA_ldINnn nnn, ?_⟩, decode_encodeX_ldFVx x, ?_⟩⟩
  · obtain hkept | hload | hglyph | ⟨-, n, hsum⟩ := exec_index_cases hexec
    · exact absurd hlower (hkept ▸ Nat.lt_irrefl _)
    · exact .inl hload
    · exact .inr hglyph
    · exact absurd hlower (Nat.not_lt.mpr (hsum ▸ s.index_le_sat16_add n))
  · exact writesIndex_of_writeIndex (exec_ldINnn nnn s) (addrOperand_toNat nnn)
  · exact writesIndex_of_writeIndex (exec_ldFVx x s) (glyphAddr_toNat (s.reg x))

end Machine

end Sys2Proof

/-! PROOFS. The delay timer's transfers: the read answers `writeReg`, the write replaces the count, and while the machine runs `n` ticks
take `n` from the count, never below 0 (46_timers.md R170, R171; 60_exceptions.md R215). -/

namespace Sys2Proof

theorem decode_encodeX_ldVxDt (x : RegIdx) : decode (encodeX 0xF x 0x07) = .ldVxDt x :=
  decode_encode_of_codes (i := .ldVxDt x) (before := opcodeTable.take 26) rfl (Laws.EncodeMatches.ldVxDt x) rfl (by decide)
    (congrArg Instr.ldVxDt (fieldX_encodeX 0xF x 0x07))

theorem decode_encodeX_ldDtVx (x : RegIdx) : decode (encodeX 0xF x 0x15) = .ldDtVx x :=
  decode_encode_of_codes (i := .ldDtVx x) (before := opcodeTable.take 28) rfl (Laws.EncodeMatches.ldDtVx x) rfl (by decide)
    (congrArg Instr.ldDtVx (fieldX_encodeX 0xF x 0x15))

namespace Machine

theorem exec_ldVxDt (x : RegIdx) (s : State) : exec (.ldVxDt x) s = writeReg x s.dt s := rfl
theorem exec_ldDtVx (x : RegIdx) (s : State) : exec (.ldDtVx x) s = .next (s.setDt (s.reg x)).advance := rfl

/-- Writing `DT` and advancing changes nothing but `DT` and `PC`. -/
theorem State.sameBut_setDt_advance (s : State) (b : Byte) : SameBut [.dt, .pc] s (s.setDt b).advance := by
  constructor
  case dt => exact fun h => absurd List.mem_cons_self h
  case pc => exact fun h => absurd (List.mem_cons_of_mem _ List.mem_cons_self) h
  all_goals simp

/-- While the machine runs, `n` ticks take `n` from `DT`, never below 0 (60_exceptions.md R215). -/
theorem State.dtTick_iterate_dt_toNat (n : Nat) (s : State) (hrun : s.run = true) :
    (State.dtTick^[n] s).dt.toNat = s.dt.toNat - n := by
  induction n generalizing s with
  | zero => rfl
  | succ n ih =>
    have hdt : s.dtTick.dt.toNat = s.dt.toNat - 1 := by rw [State.dtTick_dt, if_pos hrun, tickDown_toNat]
    rw [Function.iterate_succ_apply, ih s.dtTick (s.dtTick_run.trans hrun), hdt, Nat.sub_sub, Nat.add_comm]

/-- Settles O33: the read is `writeReg` of `DT`; the write puts `V[x]` in `DT` and keeps `RUN`, so the ticks count down from it. -/
theorem delayTimerTransfers : Obligations.DelayTimerTransfers := by
  intro x s
  refine ⟨⟨decode_encodeX_ldVxDt x, writesOnly_of_writeReg (exec_ldVxDt x s)⟩, decode_encodeX_ldDtVx x,
    _, exec_ldDtVx x s, ?_, ?_, s.sameBut_setDt_advance _, fun hrun n => ?_⟩
  · rw [State.advance_dt, State.setDt_dt]
  · rw [State.advance_pc, State.setDt_pc]
  · have hkept : (s.setDt (s.reg x)).advance.run = true := by rw [State.advance_run, State.setDt_run, hrun]
    rw [State.dtTick_iterate_dt_toNat n _ hkept, State.advance_dt, State.setDt_dt]

end Machine

end Sys2Proof

/-! PROOFS. The unknown instruction answers the default advance, and that advance alone changes nothing but `PC`
(48_system_unknown.md R191). -/

namespace Sys2Proof.Machine

theorem exec_unknown (w : Word) (s : State) : exec (.unknown w) s = .next s.advance := rfl

/-- The default advance is a jump to `PC + 2`, so it changes nothing but `PC` (40_control_transfer.md R100). -/
theorem State.sameBut_advance (s : State) : SameBut [.pc] s s.advance := s.sameBut_jump (s.pc + 2)

/-- An instruction that answers the bare advance is a no-op: it goes on by 2 and changes nothing else, `FAULT` included. -/
theorem noOp_of_advance {i : Instr} {s : State} (hexec : exec i s = .next s.advance) :
    ∃ t, exec i s = .next t ∧ t.pc = s.pc + 2 ∧ SameBut [.pc] s t :=
  ⟨_, hexec, s.advance_pc, s.sameBut_advance⟩

/-- Settles O39: a word that no row matches decodes to the unknown instruction, with the record of R78, and that instruction is the
bare advance. -/
theorem unknownWordIsANoOp : Obligations.UnknownWordIsANoOp := by
  intro w s hnone
  have hdecode : decode w = .unknown w := decode_of_no_match hnone
  have hrecord : decodeRecord w = ⟨"UNKNOWN", w, []⟩ := (decodeTakesTheFirstMatch w).2 hnone
  obtain ⟨t, hexec, hpc, hframe⟩ := noOp_of_advance (exec_unknown w s)
  exact ⟨hrecord, t, hdecode, hdecode ▸ hexec, hpc, hframe⟩

end Sys2Proof.Machine

/-! PROOFS. Which rows of the opcode table can match one word, decided on the rows' masks and codes alone; the row of an instruction's
name is then the first to match its word, and `decode` gives the instruction back (30_encoding.md R73, R76, R77). -/

namespace Sys2Proof

/-- Two rows share a word only when their codes agree under both masks, and only CLS and RET agree with a later row: with SYS (R77). -/
theorem opcodeTable_disjoint :
    opcodeTable.Pairwise fun d e => (d.name = "CLS" ∨ d.name = "RET") ∧ e.name = "SYS" ∨ d.code &&& e.mask ≠ e.code &&& d.mask := by
  decide

/-- Settles O4: rows that match one word have codes that agree under both masks, and the table has no other such pair. -/
theorem onlyClsAndRetOverlapSys : Obligations.OnlyClsAndRetOverlapSys := by
  intro before d middle e after htable w hd he
  have hpairs := opcodeTable_disjoint
  rw [htable, List.append_assoc, List.cons_append] at hpairs
  have hrow := List.rel_of_pairwise_cons (List.pairwise_append.mp hpairs).2.1
    (List.mem_append_right middle (List.mem_cons_self (a := e) (l := after)))
  exact hrow.resolve_right fun hne => hne (codes_agree_of_match hd he)

/-- The word of an instruction other than SYS decodes to it, when the row of its name gives the operands back. -/
theorem decode_encode_of_name {i : Instr} {d : OpcodeDescriptor} (hmem : d ∈ opcodeTable) (hmatch : Laws.EncodeMatches.Statement i)
    (hname : d.name = i.mnemonic) (hsys : d.name ≠ "SYS") (hmake : d.make (encode i) = i) : decode (encode i) = i := by
  obtain ⟨before, after, htable⟩ := List.append_of_mem hmem
  refine decode_encode_of_codes htable hmatch hname (fun e he hagree => ?_) hmake
  have hpairs := htable ▸ opcodeTable_disjoint
  obtain ⟨-, h⟩ | h := (List.pairwise_append.mp hpairs).2.2 e he d List.mem_cons_self
  · exact hsys h
  · exact h hagree.symm

end Sys2Proof

/-! PROOFS. `decode` inverts `encode`: on each instruction through the row of its name, on each unknown word because the spec's list of
those words is what the table leaves over (30_encoding.md R71, R76, R78). -/

namespace Sys2Proof

/-- SYS takes the words that CLS and RET, the rows before it, leave (R77). -/
theorem decode_encodeA_sys (nnn : BitVec 12) (hcls : nnn ≠ 0x0E0) (hret : nnn ≠ 0x0EE) : decode (encodeA 0x0 nnn) = .sys nnn := by
  have hword : ∀ w : Word, encodeA 0x0 nnn &&& 0xFFFF = w → nnn = fieldNNN w := fun w hw => by
    rw [← hw, show (0xFFFF : Word) = BitVec.allOnes 16 from rfl, BitVec.and_allOnes, fieldNNN_encodeA]
  have hbefore : ∀ e ∈ opcodeTable.take 2, encodeA 0x0 nnn &&& e.mask ≠ e.code :=
    List.forall_mem_cons.mpr ⟨fun h => hcls (hword _ h), List.forall_mem_singleton.mpr fun h => hret (hword _ h)⟩
  have hmatch : encodeA 0x0 nnn &&& 0xF000 = 0x0000 :=
    of_decide_eq_true (Laws.EncodeMatches.sys nnn opcodeTable[2] (List.getElem_mem _) rfl)
  exact (decode_of_first_match (before := opcodeTable.take 2) rfl hmatch hbefore).trans (congrArg Instr.sys (fieldNNN_encodeA 0x0 nnn))

/-- The words of R78's list are those no row matches: with 5, 8 or 9 in the opcode nibble the last nibble decides, with E or F the low
byte, and with any other some row takes every word. -/
theorem isUnknownWord_iff (w : Word) : isUnknownWord w = true ↔ ∀ d ∈ opcodeTable, w &&& d.mask ≠ d.code := by
  rw [word_eq_nibbles w]
  generalize w.extractLsb' 12 4 = op, w.extractLsb' 8 4 = x, w.extractLsb' 4 4 = y, w.extractLsb' 0 4 = n
  have hop : op = 0x8 ∨ op = 0xE ∨ op = 0xF ∨ op = 0x0 ∨ op = 0x1 ∨ op = 0x2 ∨ op = 0x3 ∨ op = 0x4 ∨ op = 0x5 ∨ op = 0x6 ∨ op = 0x7 ∨
      op = 0x9 ∨ op = 0xA ∨ op = 0xB ∨ op = 0xC ∨ op = 0xD := by decide +revert
  simp only [opcodeTable, opcodeRows0to7, opcodeRows8to9, opcodeRowsAtoE, opcodeRowsF, List.cons_append, List.nil_append,
    List.forall_mem_cons, List.not_mem_nil, false_implies, implies_true, and_true, ne_eq, BitVec.ofNat_eq_ofNat, mask_F000, mask_F00F,
    mask_F0FF, mask_FFFF, encodeXY_eq_iff, isUnknownWord, encodeXY_nibble3, encodeXY_nibble0, byte_eq_iff, encodeXY_low_byte]
  obtain rfl | rfl | rfl | rfl | rfl | rfl | rfl | rfl | rfl | rfl | rfl | rfl | rfl | rfl | rfl | rfl := hop
  case inl =>
    have hlast : (n = 8#4 ∨ n = 9#4 ∨ n = 10#4 ∨ n = 11#4 ∨ n = 12#4 ∨ n = 13#4 ∨ n = 15#4) ↔ n ≠ 0#4 ∧ n ≠ 1#4 ∧ n ≠ 2#4 ∧ n ≠ 3#4 ∧
        n ≠ 4#4 ∧ n ≠ 5#4 ∧ n ≠ 6#4 ∧ n ≠ 7#4 ∧ n ≠ 14#4 := by decide +revert
    simpa using hlast
  all_goals simp [imp_iff_not_or]

/-- `decode_encode_of_name` with the row named by its place in the table. -/
theorem decode_encode_at {i : Instr} (k : Nat) (hmatch : Laws.EncodeMatches.Statement i)
    (hk : k < opcodeTable.length := by decide) (hname : opcodeTable[k].name = i.mnemonic := by rfl)
    (hsys : opcodeTable[k].name ≠ "SYS" := by decide) (hmake : opcodeTable[k].make (encode i) = i) :
    decode (encode i) = i :=
  decode_encode_of_name (List.getElem_mem hk) hmatch hname hsys hmake

/-- Every well-formed instruction is what its word decodes to. -/
theorem decode_encode : ∀ i : Instr, i.wellFormed = true → decode (encode i) = i
  | .cls, _ | .ret, _ => rfl
  | .sys nnn, h => (of_decide_eq_true h).elim (decode_encodeA_sys nnn)
  | .jp nnn, _ => decode_encodeA_jp nnn
  | .call nnn, _ => decode_encode_at 4 (Laws.EncodeMatches.call nnn) (hmake := congrArg Instr.call (fieldNNN_encodeA 0x2 nnn))
  | .seVxNn x nn, _ => decode_encodeXI_seVxNn x nn
  | .sneVxNn x nn, _ => decode_encodeXI_sneVxNn x nn
  | .seVxVy x y, _ => decode_encodeXY_seVxVy x y
  | .ldVxNn x nn, _ => decode_encodeXI_ldVxNn x nn
  | .addVxNn x nn, _ => decode_encode_at 9 (Laws.EncodeMatches.addVxNn x nn)
      (hmake := congrArg₂ Instr.addVxNn (fieldX_encodeXI 0x7 x nn) (fieldNN_encodeXI 0x7 x nn))
  | .ldVxVy x y, _ => decode_encodeXY_ldVxVy x y
  | .orVxVy x y, _ => decode_encode_at 11 (Laws.EncodeMatches.orVxVy x y)
      (hmake := congrArg₂ Instr.orVxVy (fieldX_encodeXY 0x8 x y 0x1) (fieldY_encodeXY 0x8 x y 0x1))
  | .andVxVy x y, _ => decode_encode_at 12 (Laws.EncodeMatches.andVxVy x y)
      (hmake := congrArg₂ Instr.andVxVy (fieldX_encodeXY 0x8 x y 0x2) (fieldY_encodeXY 0x8 x y 0x2))
  | .xorVxVy x y, _ => decode_encode_at 13 (Laws.EncodeMatches.xorVxVy x y)
      (hmake := congrArg₂ Instr.xorVxVy (fieldX_encodeXY 0x8 x y 0x3) (fieldY_encodeXY 0x8 x y 0x3))
  | .addVxVy x y, _ => decode_encode_at 14 (Laws.EncodeMatches.addVxVy x y)
      (hmake := congrArg₂ Instr.addVxVy (fieldX_encodeXY 0x8 x y 0x4) (fieldY_encodeXY 0x8 x y 0x4))
  | .subVxVy x y, _ => decode_encode_at 15 (Laws.EncodeMatches.subVxVy x y)
      (hmake := congrArg₂ Instr.subVxVy (fieldX_encodeXY 0x8 x y 0x5) (fieldY_encodeXY 0x8 x y 0x5))
  | .shrVx x y, _ => decode_encode_at 16 (Laws.EncodeMatches.shrVx x y)
      (hmake := congrArg₂ Instr.shrVx (fieldX_encodeXY 0x8 x y 0x6) (fieldY_encodeXY 0x8 x y 0x6))
  | .subnVxVy x y, _ => decode_encode_at 17 (Laws.EncodeMatches.subnVxVy x y)
      (hmake := congrArg₂ Instr.subnVxVy (fieldX_encodeXY 0x8 x y 0x7) (fieldY_encodeXY 0x8 x y 0x7))
  | .shlVx x y, _ => decode_encode_at 18 (Laws.EncodeMatches.shlVx x y)
      (hmake := congrArg₂ Instr.shlVx (fieldX_encodeXY 0x8 x y 0xE) (fieldY_encodeXY 0x8 x y 0xE))
  | .sneVxVy x y, _ => decode_encodeXY_sneVxVy x y
  | .ldINnn nnn, _ => decode_encodeA_ldINnn nnn
  | .jpV0 nnn, _ => decode_encode_at 21 (Laws.EncodeMatches.jpV0 nnn) (hmake := congrArg Instr.jpV0 (fieldNNN_encodeA 0xB nnn))
  | .rnd x nn, _ => decode_encode_at 22 (Laws.EncodeMatches.rnd x nn)
      (hmake := congrArg₂ Instr.rnd (fieldX_encodeXI 0xC x nn) (fieldNN_encodeXI 0xC x nn))
  | .drw x y n, _ => decode_encode_at 23 (Laws.EncodeMatches.drw x y n)
      (hmake := congr (congrArg₂ Instr.drw (fieldX_encodeXY 0xD x y n) (fieldY_encodeXY 0xD x y n)) (fieldN_encodeXY 0xD x y n))
  | .skp x, _ => decode_encode_at 24 (Laws.EncodeMatches.skp x) (hmake := congrArg Instr.skp (fieldX_encodeX 0xE x 0x9E))
  | .sknp x, _ => decode_encode_at 25 (Laws.EncodeMatches.sknp x) (hmake := congrArg Instr.sknp (fieldX_encodeX 0xE x 0xA1))
  | .ldVxDt x, _ => decode_encodeX_ldVxDt x
  | .ldVxK x, _ => decode_encode_at 27 (Laws.EncodeMatches.ldVxK x) (hmake := congrArg Instr.ldVxK (fieldX_encodeX 0xF x 0x0A))
  | .ldDtVx x, _ => decode_encodeX_ldDtVx x
  | .ldStVx x, _ => decode_encode_at 29 (Laws.EncodeMatches.ldStVx x) (hmake := congrArg Instr.ldStVx (fieldX_encodeX 0xF x 0x18))
  | .addIVx x, _ => decode_encode_at 30 (Laws.EncodeMatches.addIVx x) (hmake := congrArg Instr.addIVx (fieldX_encodeX 0xF x 0x1E))
  | .ldFVx x, _ => decode_encodeX_ldFVx x
  | .ldBVx x, _ => decode_encode_at 32 (Laws.EncodeMatches.ldBVx x) (hmake := congrArg Instr.ldBVx (fieldX_encodeX 0xF x 0x33))
  | .ldMemVx x, _ => decode_encode_at 33 (Laws.EncodeMatches.ldMemVx x) (hmake := congrArg Instr.ldMemVx (fieldX_encodeX 0xF x 0x55))
  | .ldVxMem x, _ => decode_encode_at 34 (Laws.EncodeMatches.ldVxMem x) (hmake := congrArg Instr.ldVxMem (fieldX_encodeX 0xF x 0x65))
  | .unknown w, h => decode_of_no_match ((isUnknownWord_iff w).mp h)

/-- Settles O1: the two bytes of the word are the word again, and the word decodes to its instruction. -/
theorem decodeOfEncodeIsTheInstruction : Obligations.DecodeOfEncodeIsTheInstruction := by
  intro i hwf
  have hword : decode (encode i) = i := decode_encode i hwf
  exact ⟨hword, fun rest => by rw [decodeBytes_cons, wordOfBytes_bytes, hword]⟩

/-! ## Every word -/

theorem encodeA_fieldNNN (op x y n : BitVec 4) : encodeA op (fieldNNN (encodeXY op x y n)) = encodeXY op x y n := by
  ext i hi; interval_cases i <;> simp [encodeXY, encodeA, place, fieldNNN, ArgumentSpec.field, argNNN]

theorem encodeXI_fieldNN (op x y n : BitVec 4) : encodeXI op x (fieldNN (encodeXY op x y n)) = encodeXY op x y n := by
  ext i hi; interval_cases i <;> simp [encodeXY, encodeXI, place, fieldNN, ArgumentSpec.field, argNN]

/-- A row with mask 0xF000 fixes the opcode nibble alone. -/
theorem eq_encodeXY_of_mask_F000 {w : Word} {op : BitVec 4} (h : w &&& 0xF000 = encodeXY op 0 0 0) :
    ∃ x y n, w = encodeXY op x y n := by
  rw [word_eq_nibbles w] at h ⊢
  obtain ⟨rfl, -⟩ := (encodeXY_inj ..).mp ((mask_F000 ..).symm.trans h)
  exact ⟨_, _, _, rfl⟩

/-- A row with mask 0xF00F fixes the opcode nibble and the last one. -/
theorem eq_encodeXY_of_mask_F00F {w : Word} {op n : BitVec 4} (h : w &&& 0xF00F = encodeXY op 0 0 n) :
    ∃ x y, w = encodeXY op x y n := by
  rw [word_eq_nibbles w] at h ⊢
  obtain ⟨rfl, -, -, rfl⟩ := (encodeXY_inj ..).mp ((mask_F00F ..).symm.trans h)
  exact ⟨_, _, rfl⟩

/-- A row with mask 0xF0FF fixes every nibble but `x`. -/
theorem eq_encodeX_of_mask_F0FF {w : Word} {op : BitVec 4} {sub : Byte} (h : w &&& 0xF0FF = encodeX op 0 sub) :
    ∃ x, w = encodeX op x sub := by
  rw [word_eq_nibbles w, encodeX_eq] at h
  obtain ⟨rfl, -, hy, hn⟩ := (encodeXY_inj ..).mp ((mask_F0FF ..).symm.trans h)
  exact ⟨_, by rw [encodeX_eq, ← hy, ← hn, ← word_eq_nibbles]⟩

/-! Formats `A`, `XI`, `XY`, `XYN` and `X`: the bits a row fixes and the fields it extracts make up the word (R71, R74). -/

theorem encodeA_of_mask (op : BitVec 4) (w : Word) (h : w &&& 0xF000 = encodeXY op 0 0 0) : encodeA op (fieldNNN w) = w := by
  obtain ⟨x, y, n, rfl⟩ := eq_encodeXY_of_mask_F000 h
  exact encodeA_fieldNNN op x y n

theorem encodeXI_of_mask (op : BitVec 4) (w : Word) (h : w &&& 0xF000 = encodeXY op 0 0 0) :
    encodeXI op (fieldX w) (fieldNN w) = w := by
  obtain ⟨x, y, n, rfl⟩ := eq_encodeXY_of_mask_F000 h
  rw [fieldX_encodeXY, encodeXI_fieldNN]

theorem encodeXYN_of_mask (op : BitVec 4) (w : Word) (h : w &&& 0xF000 = encodeXY op 0 0 0) :
    encodeXY op (fieldX w) (fieldY w) (fieldN w) = w := by
  obtain ⟨x, y, n, rfl⟩ := eq_encodeXY_of_mask_F000 h
  rw [fieldX_encodeXY, fieldY_encodeXY, fieldN_encodeXY]

theorem encodeXY_of_mask (op n : BitVec 4) (w : Word) (h : w &&& 0xF00F = encodeXY op 0 0 n) :
    encodeXY op (fieldX w) (fieldY w) n = w := by
  obtain ⟨x, y, rfl⟩ := eq_encodeXY_of_mask_F00F h
  rw [fieldX_encodeXY, fieldY_encodeXY]

theorem encodeX_of_mask (op : BitVec 4) (sub : Byte) (w : Word) (h : w &&& 0xF0FF = encodeX op 0 sub) :
    encodeX op (fieldX w) sub = w := by
  obtain ⟨x, rfl⟩ := eq_encodeX_of_mask_F0FF h
  rw [fieldX_encodeX]

/-- The instruction a row makes of a word it matches has that word. -/
theorem encode_make_of_match : ∀ d ∈ opcodeTable, ∀ w : Word, w &&& d.mask = d.code → encode (d.make w) = w := by
  simp only [opcodeTable, List.forall_mem_append, opcodeRows0to7, opcodeRows8to9, opcodeRowsAtoE, opcodeRowsF, List.forall_mem_cons,
    List.not_mem_nil, false_implies, implies_true, and_true]
  have hwhole : ∀ w c : Word, w &&& 0xFFFF = c → c = w := fun w c h => h.symm.trans (BitVec.and_allOnes (x := w))
  exact ⟨⟨⟨⟨fun w => hwhole w _, fun w => hwhole w _, encodeA_of_mask 0x0, encodeA_of_mask 0x1, encodeA_of_mask 0x2,
        encodeXI_of_mask 0x3, encodeXI_of_mask 0x4, encodeXY_of_mask 0x5 0x0, encodeXI_of_mask 0x6, encodeXI_of_mask 0x7⟩,
      encodeXY_of_mask 0x8 0x0, encodeXY_of_mask 0x8 0x1, encodeXY_of_mask 0x8 0x2, encodeXY_of_mask 0x8 0x3, encodeXY_of_mask 0x8 0x4,
      encodeXY_of_mask 0x8 0x5, encodeXY_of_mask 0x8 0x6, encodeXY_of_mask 0x8 0x7, encodeXY_of_mask 0x8 0xE, encodeXY_of_mask 0x9 0x0⟩,
      encodeA_of_mask 0xA, encodeA_of_mask 0xB, encodeXI_of_mask 0xC, encodeXYN_of_mask 0xD, encodeX_of_mask 0xE 0x9E,
      encodeX_of_mask 0xE 0xA1⟩,
    encodeX_of_mask 0xF 0x07, encodeX_of_mask 0xF 0x0A, encodeX_of_mask 0xF 0x15, encodeX_of_mask 0xF 0x18, encodeX_of_mask 0xF 0x1E,
    encodeX_of_mask 0xF 0x29, encodeX_of_mask 0xF 0x33, encodeX_of_mask 0xF 0x55, encodeX_of_mask 0xF 0x65⟩

/-- Everything `decode` can do (R73): a row that matches the word makes the instruction, or no row matches and the word is unknown. -/
theorem decode_cases (w : Word) :
    (∃ d ∈ opcodeTable, w &&& d.mask = d.code ∧ decode w = d.make w) ∨
    ((∀ d ∈ opcodeTable, w &&& d.mask ≠ d.code) ∧ decode w = .unknown w) := by
  cases hfind : opcodeTable.find? (·.matchesWord w) with
  | some d =>
    have hmatch := (d.matchesWord_iff w).mp (List.find?_some hfind :)
    exact .inl ⟨d, List.mem_of_find?_eq_some hfind, hmatch, by simp only [decode, hfind]⟩
  | none =>
    have hnone : ∀ d ∈ opcodeTable, w &&& d.mask ≠ d.code := fun d hd hm =>
      List.find?_eq_none.mp hfind d hd ((d.matchesWord_iff w).mpr hm)
    exact .inr ⟨hnone, decode_of_no_match hnone⟩

theorem encode_decode (w : Word) : encode (decode w) = w := by
  obtain ⟨d, hmem, hmatch, hdecode⟩ | ⟨-, hdecode⟩ := decode_cases w
  · rw [hdecode, encode_make_of_match d hmem w hmatch]
  · rw [hdecode, encode]

/-- No row is called UNKNOWN, so a word is decoded to it only when no row matches (R78). -/
theorem decode_eq_unknown_iff (w : Word) : decode w = .unknown w ↔ ∀ d ∈ opcodeTable, w &&& d.mask ≠ d.code := by
  refine ⟨fun hunknown => ?_, decode_of_no_match⟩
  obtain ⟨d, hmem, -, hdecode⟩ | ⟨hnone, -⟩ := decode_cases w
  · have hnames : ∀ d ∈ opcodeTable, d.name ≠ "UNKNOWN" := by decide
    have hname := opcodeTable_mnemonic d hmem w
    rw [← hdecode, hunknown] at hname
    exact absurd hname.symm (hnames d hmem)
  · exact hnone

/-- Settles O5: both sides say that no row of the table matches the word. -/
theorem unknownWordsAreTheListedOnes : Obligations.UnknownWordsAreTheListedOnes :=
  fun w => (decode_eq_unknown_iff w).trans (isUnknownWord_iff w).symm

/-- An instruction that comes back from its word is well formed: the words of SYS 0x0E0 and SYS 0x0EE come back as CLS and RET. -/
theorem wellFormed_of_decode_encode {i : Instr} (h : decode (encode i) = i) : i.wellFormed = true := by
  cases i
  case sys nnn =>
    refine decide_eq_true ⟨?_, ?_⟩ <;> rintro rfl <;> exact absurd h (by decide)
  case unknown w => exact (unknownWordsAreTheListedOnes w).mp h
  all_goals rfl

/-- Settles O2: the word comes back from its instruction, so the instruction comes back from its word. -/
theorem encodeOfDecodeIsTheWord : Obligations.EncodeOfDecodeIsTheWord :=
  fun w => ⟨wellFormed_of_decode_encode (congrArg decode (encode_decode w)), encode_decode w⟩

/-- Settles O6: each of these words is the word of the instruction it decodes to, by its format (R71). -/
theorem wordsOfEachFamilyDecode : Obligations.WordsOfEachFamilyDecode :=
  ⟨decode_encode (.jp 0x234) rfl, decode_encode (.addVxVy 0 1) rfl, decode_encode (.seVxNn 10 0x7F) rfl,
    decode_encode (.rnd 7 0xF0) rfl, decode_encode (.drw 1 2 15) rfl, decode_encode (.sknp 1) rfl, decode_encode (.ldStVx 1) rfl,
    decode_encode (.ldMemVx 1) rfl, decode_encode .ret rfl, decode_encode (.sys 0x0EF) rfl, decode_encode (.unknown 0x8AB8) rfl⟩

end Sys2Proof

/-! PROOFS. What a change of the state keeps, part by part: each operation keeps every part but the one it writes, and what two
operations in a row keep follows (10_state.md). An obligation's frame is read off the operations its instruction is made of. -/

namespace Sys2Proof.Machine

/-- A part of the state is the same in `t` as in `s`, as a value. -/
def Part.Same (s t : State) : Part → Prop
  | .regs => t.v = s.v
  | .pc => t.pc = s.pc
  | .index => t.index = s.index
  | .stack => t.stack = s.stack
  | .sp => t.sp = s.sp
  | .dt => t.dt = s.dt
  | .st => t.st = s.st
  | .mem => t.mem = s.mem
  | .fb => t.fb = s.fb
  | .keys => t.keys = s.keys
  | .klatch => t.klatch = s.klatch
  | .fault => t.faultReg = s.faultReg
  | .run => t.run = s.run
  | .events => t.events = s.events ∧ t.eventTail = s.eventTail
  | .rand => t.randQueue = s.randQueue ∧ t.randDraws = s.randDraws

/-- Every part not listed is the same. -/
structure Keeps (ps : List Part) (s t : State) : Prop where
  same : ∀ p, p ∉ ps → p.Same s t

theorem Part.Same.trans {p : Part} {s t u : State} (hst : p.Same s t) (htu : p.Same t u) : p.Same s u := by
  cases p
  case events | rand => exact ⟨htu.1.trans hst.1, htu.2.trans hst.2⟩
  all_goals exact Eq.trans htu hst

theorem Keeps.refl (ps : List Part) (s : State) : Keeps ps s s := ⟨fun p _ => by
  cases p
  case events | rand => exact ⟨rfl, rfl⟩
  all_goals exact rfl⟩

theorem Keeps.trans {ps qs : List Part} {s t u : State} (hst : Keeps ps s t) (htu : Keeps qs t u) : Keeps (ps ++ qs) s u :=
  ⟨fun p hp => (hst.same p fun h => hp (List.mem_append_left qs h)).trans (htu.same p fun h => hp (List.mem_append_right ps h))⟩

theorem Keeps.mono {ps qs : List Part} {s t : State} (h : Keeps ps s t) (hsub : ps ⊆ qs) : Keeps qs s t :=
  ⟨fun p hp => h.same p fun hmem => hp (hsub hmem)⟩

/-- A part that changed is a listed one. -/
theorem Keeps.mem_of_changed {ps : List Part} {s t : State} (h : Keeps ps s t) {p : Part} (hchanged : ¬ p.Same s t) : p ∈ ps :=
  by_contra fun hp => hchanged (h.same p hp)

/-- What is kept as a value reads as before. -/
theorem Keeps.sameBut {ps : List Part} {s t : State} (h : Keeps ps s t) : SameBut ps s t where
  regs hp := State.reg_congr (h.same .regs hp)
  pc := h.same .pc
  index := h.same .index
  stack hp k := congrArg (fun stack : Vector Word 16 => stack[k.toNat]'(regIdx_lt k)) (h.same .stack hp)
  sp := h.same .sp
  dt := h.same .dt
  st := h.same .st
  mem hp a := congrArg (Memory.get · a) (h.same .mem hp)
  fb hp px py := congrArg (FrameBuffer.pixel · px py) (h.same .fb hp)
  keys hp := State.keyPressed_congr (h.same .keys hp)
  klatch := h.same .klatch
  fault := h.same .fault
  run := h.same .run
  events := h.same .events
  rand := h.same .rand

/-! ## One part each -/

/-- A change to one part keeps the others. -/
theorem keeps_singleton {q : Part} {s t : State} (h : ∀ p, p ≠ q → p.Same s t) : Keeps [q] s t :=
  ⟨fun p hp => h p fun e => hp (List.mem_singleton.mpr e)⟩

section

variable (s : State)

theorem State.keeps_setReg (x : RegIdx) (b : Byte) : Keeps [.regs] s (s.setReg x b) :=
  keeps_singleton fun p hp => by cases p <;> simp [Part.Same] at hp ⊢

theorem State.keeps_setFlagThenReg (f : Byte) (x : RegIdx) (b : Byte) : Keeps [.regs] s (s.setFlagThenReg f x b) :=
  keeps_singleton fun p hp => by cases p <;> simp [Part.Same] at hp ⊢

theorem State.keeps_setRegs (w : RegFile) : Keeps [.regs] s (s.setRegs w) :=
  keeps_singleton fun p hp => by cases p <;> simp [Part.Same] at hp ⊢

theorem State.keeps_advance : Keeps [.pc] s s.advance :=
  keeps_singleton fun p hp => by cases p <;> simp [Part.Same] at hp ⊢

theorem State.keeps_skipIf (c : Bool) : Keeps [.pc] s (s.skipIf c) :=
  keeps_singleton fun p hp => by cases p <;> simp [Part.Same] at hp ⊢

theorem State.keeps_jump (target : Word) : Keeps [.pc] s (s.jump target) :=
  keeps_singleton fun p hp => by cases p <;> simp [Part.Same] at hp ⊢

theorem State.keeps_setIndex (w : Word) : Keeps [.index] s (s.setIndex w) :=
  keeps_singleton fun p hp => by cases p <;> simp [Part.Same] at hp ⊢

theorem State.keeps_moveIndex (x : RegIdx) : Keeps [.index] s (s.moveIndex x) :=
  keeps_singleton fun p hp => by cases p <;> simp [Part.Same] at hp ⊢

theorem State.keeps_pop : Keeps [.sp] s s.pop :=
  keeps_singleton fun p hp => by cases p <;> simp [Part.Same] at hp ⊢

theorem State.keeps_setDt (b : Byte) : Keeps [.dt] s (s.setDt b) :=
  keeps_singleton fun p hp => by cases p <;> simp [Part.Same] at hp ⊢

theorem State.keeps_dtTick : Keeps [.dt] s s.dtTick :=
  keeps_singleton fun p hp => by cases p <;> simp [Part.Same] at hp ⊢

theorem State.keeps_setSt (b : Byte) : Keeps [.st] s (s.setSt b) :=
  keeps_singleton fun p hp => by cases p <;> simp [Part.Same] at hp ⊢

theorem State.keeps_stTick : Keeps [.st] s s.stTick :=
  keeps_singleton fun p hp => by cases p <;> simp [Part.Same] at hp ⊢

theorem State.keeps_setMem (m : Memory) : Keeps [.mem] s (s.setMem m) :=
  keeps_singleton fun p hp => by cases p <;> simp [Part.Same] at hp ⊢

theorem State.keeps_setFb (f : FrameBuffer) : Keeps [.fb] s (s.setFb f) :=
  keeps_singleton fun p hp => by cases p <;> simp [Part.Same] at hp ⊢

theorem State.keeps_keyUp (k : Key) : Keeps [.keys] s (s.keyUp k) :=
  keeps_singleton fun p hp => by cases p <;> simp [Part.Same] at hp ⊢

theorem State.keeps_keyTaken : Keeps [.klatch] s s.keyTaken :=
  keeps_singleton fun p hp => by cases p <;> simp [Part.Same] at hp ⊢

theorem State.keeps_setFault (f : FaultReg) : Keeps [.fault] s (s.setFault f) :=
  keeps_singleton fun p hp => by cases p <;> simp [Part.Same] at hp ⊢

theorem State.keeps_started : Keeps [.run] s s.started :=
  keeps_singleton fun p hp => by cases p <;> simp [Part.Same] at hp ⊢

theorem State.keeps_stopped : Keeps [.run] s s.stopped :=
  keeps_singleton fun p hp => by cases p <;> simp [Part.Same] at hp ⊢

theorem State.keeps_eventTaken : Keeps [.events] s s.eventTaken :=
  keeps_singleton fun p hp => by cases p <;> simp [Part.Same] at hp ⊢

theorem State.keeps_afterDraw : Keeps [.rand] s s.afterDraw :=
  keeps_singleton fun p hp => by cases p <;> simp [Part.Same] at hp ⊢

theorem State.keeps_push (ret : Word) : Keeps [.sp, .stack] s (s.push ret) :=
  ⟨fun p hp => by cases p <;> simp [Part.Same] at hp ⊢⟩

theorem State.keeps_keyDown (k : Key) : Keeps [.keys, .klatch] s (s.keyDown k) :=
  ⟨fun p hp => by cases p <;> simp [Part.Same] at hp ⊢⟩

end

theorem Keeps.advance {ps : List Part} {s t : State} (h : Keeps ps s t) : Keeps (ps ++ [.pc]) s t.advance := h.trans t.keeps_advance

/-! ## The changes that several instructions and their frames speak of -/

theorem State.keeps_push_jump (s : State) (ret target : Word) : Keeps [.pc, .sp, .stack] s ((s.push ret).jump target) :=
  ((s.keeps_push ret).trans (State.keeps_jump ..)).mono (by decide)

theorem State.keeps_pop_jump (s : State) (target : Word) : Keeps [.pc, .sp] s (s.pop.jump target) :=
  (s.keeps_pop.trans (State.keeps_jump ..)).mono (by decide)

theorem State.keeps_afterDraw_setReg_advance (s : State) (x : RegIdx) (b : Byte) :
    Keeps [.regs, .pc, .rand] s (s.afterDraw.setReg x b).advance :=
  (s.keeps_afterDraw.trans (State.keeps_setReg ..)).advance.mono (by decide)

theorem State.keeps_keyTaken_setReg_advance (s : State) (x : RegIdx) (b : Byte) :
    Keeps [.regs, .klatch, .pc] s (s.keyTaken.setReg x b).advance :=
  (s.keeps_keyTaken.trans (State.keeps_setReg ..)).advance.mono (by decide)

end Sys2Proof.Machine

/-! PROOFS. What an instruction can do: raise the one fault its operands and the state call for, and then nothing else; or keep every
part but those it names (60_exceptions.md R201, R203; 10_state.md). -/

namespace Sys2Proof.Machine

/-- The fault of an access to `n` bytes at `I`, where one of them is outside memory (60_exceptions.md R201). -/
def State.outside (s : State) (n : Nat) : Option FaultReg := (firstOutside s.base n).map fun a => ⟨.outOfRange, sat16 a⟩

theorem State.outside_eq_none {s : State} {n : Nat} : s.outside n = none ↔ n = 0 ∨ s.index.toNat + n ≤ 4096 :=
  Option.map_eq_none_iff.trans firstOutside_eq_none

theorem State.outside_eq_some {s : State} {n : Nat} {f : FaultReg} :
    s.outside n = some f ↔ (0 < n ∧ 4096 < s.index.toNat + n) ∧ f = ⟨.outOfRange, sat16 (max s.index.toNat 4096)⟩ := by
  simp only [State.outside, Option.map_eq_some_iff, firstOutside_eq_some]
  constructor
  · rintro ⟨a, ⟨hn, hout, rfl⟩, rfl⟩
    exact ⟨⟨hn, hout⟩, rfl⟩
  · rintro ⟨⟨hn, hout⟩, rfl⟩
    exact ⟨_, ⟨hn, hout, rfl⟩, rfl⟩

/-- A fault of a data access is an `OUT_OF_RANGE`. -/
theorem State.cause_of_outside {s : State} {n : Nat} {f : FaultReg} (h : s.outside n = some f) : f.cause = .outOfRange := by
  rw [(State.outside_eq_some.mp h).2]

/-- The fault an instruction raises, where it raises one (R201). -/
def faultOf : Instr → State → Option FaultReg
  | .ret, s => if s.sp = spEmpty then some ⟨.stackUnderflow, 0⟩ else none
  | .call _, s => if s.sp = spFull then some ⟨.stackOverflow, 0⟩ else none
  | .drw _ _ n, s => s.outside n.toNat
  | .ldBVx _, s => s.outside 3
  | .ldMemVx x, s | .ldVxMem x, s => s.outside (x.toNat + 1)
  | _, _ => none

/-- The parts an instruction may write when it raises no fault. -/
def writtenParts : Instr → List Part
  | .cls => [.fb, .pc]
  | .ret => [.pc, .sp]
  | .call _ => [.pc, .sp, .stack]
  | .ldVxNn .. | .addVxNn .. | .ldVxVy .. | .orVxVy .. | .andVxVy .. | .xorVxVy .. | .addVxVy .. | .subVxVy .. | .shrVx .. | .subnVxVy ..
  | .shlVx .. | .ldVxDt _ => [.regs, .pc]
  | .ldINnn _ | .addIVx _ | .ldFVx _ => [.index, .pc]
  | .rnd .. => [.regs, .pc, .rand]
  | .drw .. => [.regs, .fb, .pc]
  | .ldVxK _ => [.regs, .klatch, .pc]
  | .ldDtVx _ => [.dt, .pc]
  | .ldStVx _ => [.st, .pc]
  | .ldBVx _ => [.mem, .pc]
  | .ldMemVx _ => [.mem, .index, .pc]
  | .ldVxMem _ => [.regs, .index, .pc]
  | .sys _ | .jp _ | .jpV0 _ | .seVxNn .. | .sneVxNn .. | .seVxVy .. | .sneVxVy .. | .skp _ | .sknp _ | .unknown _ => [.pc]

/-- An instruction has one next state. -/
theorem exec_next_unique {i : Instr} {s t u : State} (ht : exec i s = .next t) (hu : exec i s = .next u) : t = u :=
  Host.Outcome.next.inj (ht.symm.trans hu)

/-! ## The instructions that can fault, where they do not -/

theorem sp_of_ret_no_fault {s : State} (h : faultOf .ret s = none) : s.sp ≠ spEmpty :=
  fun hempty => nomatch (if_pos hempty).symm.trans h

theorem sp_of_call_no_fault {nnn : BitVec 12} {s : State} (h : faultOf (.call nnn) s = none) : s.sp ≠ spFull :=
  fun hfull => nomatch (if_pos hfull).symm.trans h

theorem exec_ret {s : State} (h : s.sp ≠ spEmpty) : exec .ret s = .next (s.pop.jump (s.stackAt s.sp)) := if_neg h

theorem exec_call (nnn : BitVec 12) {s : State} (h : s.sp ≠ spFull) :
    exec (.call nnn) s = .next ((s.push (s.pc + 2)).jump (addrOperand nnn)) := if_neg h

/-- The framebuffer and the collision mark DRW leaves: the sprite is the `n` bytes at `I`, at the coordinates `V[x]`, `V[y]`. -/
def State.drawn (s : State) (x y : RegIdx) (n : BitVec 4) : FrameBuffer × Bool :=
  drawSprite s.fb (s.reg x).toNat (s.reg y).toNat (s.mem.readBytes s.base n.toNat)

theorem exec_drw (x y : RegIdx) {n : BitVec 4} {s : State} (h : s.outside n.toNat = none) :
    exec (.drw x y n) s = .next ((s.setReg vf (collisionFlag (s.drawn x y n).2)).setFb (s.drawn x y n).1).advance := by
  simp only [exec, execDrw, memReadN, Option.map_eq_none_iff.mp h]
  rfl

theorem exec_ldBVx (x : RegIdx) {s : State} (h : s.outside 3 = none) :
    exec (.ldBVx x) s = .next (s.setMem (s.mem.writeBytes s.base (bcdDigits (s.reg x)))).advance := by
  simp only [exec, execLdBVx, memWriteN, bcdDigits_length, Option.map_eq_none_iff.mp h]

theorem exec_ldMemVx {x : RegIdx} {s : State} (h : s.outside (x.toNat + 1) = none) :
    exec (.ldMemVx x) s = .next ((s.setMem (s.mem.writeBytes s.base (s.regsUpTo x))).moveIndex x).advance := by
  simp only [exec, execLdMemVx, memWriteN, State.regsUpTo_length, Option.map_eq_none_iff.mp h]

theorem exec_ldVxMem {x : RegIdx} {s : State} (h : s.outside (x.toNat + 1) = none) :
    exec (.ldVxMem x) s =
      .next ((s.setRegs (setRegsFrom s.v 0 (s.mem.readBytes s.base (x.toNat + 1)))).moveIndex x).advance := by
  simp only [exec, execLdVxMem, memReadN, Option.map_eq_none_iff.mp h]

/-! ## The key wait -/

theorem exec_ldVxK_none (x : RegIdx) {s : State} (h : s.klatch = none) : exec (.ldVxK x) s = .next s := by
  simp only [exec, execLdVxK, h]

theorem exec_ldVxK_some (x : RegIdx) {s : State} {k : Key} (h : s.klatch = some k) :
    exec (.ldVxK x) s = .next ((s.keyTaken.setReg x (keyByte k)).advance) := by
  simp only [exec, execLdVxK, h]

/-! ## All instructions -/

/-- An instruction that raises a fault records it and does nothing else (R203). -/
theorem exec_of_fault {i : Instr} {s : State} {f : FaultReg} (h : faultOf i s = some f) : exec i s = .next (s.setFault f) := by
  cases i
  case ret | call =>
    obtain ⟨hsp, ⟨⟩⟩ := (Option.ite_none_right_eq_some ..).mp h
    exact if_pos hsp
  case drw | ldBVx | ldMemVx | ldVxMem =>
    obtain ⟨a, ha, rfl⟩ := Option.map_eq_some_iff.mp h
    simp only [exec, execDrw, execLdBVx, execLdMemVx, execLdVxMem, memReadN, memWriteN, bcdDigits_length, State.regsUpTo_length, ha]
    rfl
  all_goals exact nomatch h

/-- An instruction that raises no fault has a next state, and changes no part but those it may write. -/
theorem exec_of_no_fault {i : Instr} {s : State} (h : faultOf i s = none) :
    ∃ t, exec i s = .next t ∧ Keeps (writtenParts i) s t := by
  cases i
  case ret => exact ⟨_, exec_ret (sp_of_ret_no_fault h), s.keeps_pop_jump _⟩
  case call nnn => exact ⟨_, exec_call nnn (sp_of_call_no_fault h), s.keeps_push_jump ..⟩
  case drw x y n => exact ⟨_, exec_drw x y h, ((s.keeps_setReg ..).trans (State.keeps_setFb ..)).advance⟩
  case ldBVx x => exact ⟨_, exec_ldBVx x h, (s.keeps_setMem _).advance⟩
  case ldMemVx x => exact ⟨_, exec_ldMemVx h, ((s.keeps_setMem _).trans (State.keeps_moveIndex ..)).advance⟩
  case ldVxMem x => exact ⟨_, exec_ldVxMem h, ((s.keeps_setRegs _).trans (State.keeps_moveIndex ..)).advance⟩
  case ldVxK x =>
    cases hk : s.klatch with
    | none => exact ⟨_, exec_ldVxK_none x hk, Keeps.refl _ _⟩
    | some k => exact ⟨_, exec_ldVxK_some x hk, s.keeps_keyTaken_setReg_advance ..⟩
  case rnd x nn => exact ⟨_, rfl, s.keeps_afterDraw_setReg_advance ..⟩
  case cls => exact ⟨_, rfl, (s.keeps_setFb _).advance⟩
  case sys | unknown => exact ⟨_, rfl, s.keeps_advance⟩
  case jp | jpV0 => exact ⟨_, rfl, s.keeps_jump _⟩
  case seVxNn | sneVxNn | seVxVy | sneVxVy | skp | sknp => exact ⟨_, rfl, s.keeps_skipIf _⟩
  case addVxVy | subVxVy | shrVx | subnVxVy | shlVx =>
    exact ⟨_, rfl, (s.keeps_setFlagThenReg ..).advance⟩
  case ldINnn | addIVx | ldFVx => exact ⟨_, rfl, (s.keeps_setIndex _).advance⟩
  case ldDtVx => exact ⟨_, rfl, (s.keeps_setDt _).advance⟩
  case ldStVx => exact ⟨_, rfl, (s.keeps_setSt _).advance⟩
  case ldVxNn | addVxNn | ldVxVy | orVxVy | andVxVy | xorVxVy | ldVxDt =>
    exact ⟨_, rfl, (s.keeps_setReg ..).advance⟩

/-- Everything an instruction can do. -/
theorem exec_cases {i : Instr} {s t : State} (h : exec i s = .next t) :
    (∃ f, faultOf i s = some f ∧ t = s.setFault f) ∨ (faultOf i s = none ∧ Keeps (writtenParts i) s t) := by
  cases hf : faultOf i s with
  | some f => exact .inl ⟨f, rfl, exec_next_unique h (exec_of_fault hf)⟩
  | none =>
    obtain ⟨u, hu, hkeeps⟩ := exec_of_no_fault hf
    exact .inr ⟨rfl, exec_next_unique hu h ▸ hkeeps⟩

/-- An instruction that raises no fault leaves `FAULT`. -/
theorem faultReg_of_keeps {i : Instr} {s t : State} (h : Keeps (writtenParts i) s t) : t.faultReg = s.faultReg :=
  h.same .fault (by cases i <;> simp [writtenParts])

end Sys2Proof.Machine

/-! PROOFS. The instructions that always answer one equation: no-op, computed jump, the ALU, `I`, the random byte, the clear, the key
skips and wait, and the sound timer. Each frame is what the operations of the answer keep (40, 42 to 46, 48). -/

namespace Sys2Proof.Machine

theorem exec_sys (nnn : BitVec 12) (s : State) : exec (.sys nnn) s = .next s.advance := rfl
theorem exec_cls (s : State) : exec .cls s = .next (s.setFb clearDisplay).advance := rfl
theorem exec_jpV0 (nnn : BitVec 12) (s : State) : exec (.jpV0 nnn) s = .next (s.jump (addrOperand nnn + zext16 (s.reg 0))) := rfl
theorem exec_addVxNn (x : RegIdx) (nn : Byte) (s : State) : exec (.addVxNn x nn) s = writeReg x (s.reg x + nn) s := rfl
theorem exec_orVxVy (x y : RegIdx) (s : State) : exec (.orVxVy x y) s = writeReg x (s.reg x ||| s.reg y) s := rfl
theorem exec_andVxVy (x y : RegIdx) (s : State) : exec (.andVxVy x y) s = writeReg x (s.reg x &&& s.reg y) s := rfl
theorem exec_xorVxVy (x y : RegIdx) (s : State) : exec (.xorVxVy x y) s = writeReg x (s.reg x ^^^ s.reg y) s := rfl
theorem exec_addVxVy (x y : RegIdx) (s : State) :
    exec (.addVxVy x y) s = writeFlagAndReg (carryFlag (s.reg x) (s.reg y)) x (s.reg x + s.reg y) s := rfl
theorem exec_subVxVy (x y : RegIdx) (s : State) :
    exec (.subVxVy x y) s = writeFlagAndReg (greaterFlag (s.reg x) (s.reg y)) x (s.reg x - s.reg y) s := rfl
theorem exec_subnVxVy (x y : RegIdx) (s : State) :
    exec (.subnVxVy x y) s = writeFlagAndReg (greaterFlag (s.reg y) (s.reg x)) x (s.reg y - s.reg x) s := rfl
theorem exec_shrVx (x y : RegIdx) (s : State) : exec (.shrVx x y) s = writeFlagAndReg (shrFlag (s.reg x)) x (s.reg x >>> 1) s := rfl
theorem exec_shlVx (x y : RegIdx) (s : State) : exec (.shlVx x y) s = writeFlagAndReg (shlFlag (s.reg x)) x (s.reg x <<< 1) s := rfl
theorem exec_addIVx (x : RegIdx) (s : State) : exec (.addIVx x) s = writeIndex (sat16 (s.base + (s.reg x).toNat)) s := rfl
theorem exec_rnd (x : RegIdx) (nn : Byte) (s : State) :
    exec (.rnd x nn) s = .next (s.afterDraw.setReg x (s.rand8 &&& nn)).advance := rfl
theorem exec_skp (x : RegIdx) (s : State) : exec (.skp x) s = .next (s.skipIf (s.keyPressed (s.reg x))) := rfl
theorem exec_sknp (x : RegIdx) (s : State) : exec (.sknp x) s = .next (s.skipIf (!s.keyPressed (s.reg x))) := rfl
theorem exec_ldStVx (x : RegIdx) (s : State) : exec (.ldStVx x) s = .next (s.setSt (s.reg x)).advance := rfl

/-- Settles O40: SYS is the bare advance. -/
theorem sysIsANoOp : Obligations.SysIsANoOp := fun nnn s => noOp_of_advance (exec_sys nnn s)

/-- Settles O14: an operand below 4096 and a byte add up without a carry out of 16 bits. -/
theorem jumpV0AddsRegisterZero : Obligations.JumpV0AddsRegisterZero := by
  intro nnn s
  refine ⟨_, exec_jpV0 nnn s, ?_, s.sameBut_jump _⟩
  have hnnn := nnn.isLt
  have hv0 := (s.reg 0).isLt
  rw [State.jump_pc, BitVec.toNat_add, addrOperand_toNat, zext16_toNat, Nat.mod_eq_of_lt (by omega)]

/-! ## Arithmetic -/

/-- An instruction that answers `writeReg` writes that register and nothing else, with a byte of which `P` is known. -/
theorem writesReg_of_writeReg {i : Instr} {s : State} {x : RegIdx} {b : Byte} {P : Byte → Prop} (hexec : exec i s = writeReg x b s)
    (hP : P b) : ∃ t, exec i s = .next t ∧ WritesOnly x (t.reg x) s t ∧ P (t.reg x) := by
  obtain ⟨t, ht, hw⟩ := writesOnly_of_writeReg hexec
  obtain rfl : t.reg x = b := hw.1
  exact ⟨t, ht, hw, hP⟩

/-- Settles O20: the word decodes to its add, which is `writeReg` of the sum modulo 256. -/
theorem addImmediateWrapsWithoutFlag : Obligations.AddImmediateWrapsWithoutFlag := fun x nn s =>
  ⟨decode_encode (.addVxNn x nn) rfl, writesReg_of_writeReg (P := fun b => b.toNat = ((s.reg x).toNat + nn.toNat) % 256)
    (exec_addVxNn x nn s) (BitVec.toNat_add ..)⟩

/-- Settles O21: each word decodes to its operation, which is `writeReg` of the bits it computes. -/
theorem bitwiseOperationsLeaveTheFlag : Obligations.BitwiseOperationsLeaveTheFlag := fun x y s =>
  ⟨⟨decode_encode (.orVxVy x y) rfl,
      writesReg_of_writeReg (P := fun b => ∀ k, k < 8 → b.getLsbD k = ((s.reg x).getLsbD k || (s.reg y).getLsbD k))
        (exec_orVxVy x y s) fun _ _ => BitVec.getLsbD_or⟩,
    ⟨decode_encode (.andVxVy x y) rfl,
      writesReg_of_writeReg (P := fun b => ∀ k, k < 8 → b.getLsbD k = ((s.reg x).getLsbD k && (s.reg y).getLsbD k))
        (exec_andVxVy x y s) fun _ _ => BitVec.getLsbD_and⟩,
    ⟨decode_encode (.xorVxVy x y) rfl,
      writesReg_of_writeReg (P := fun b => ∀ k, k < 8 → b.getLsbD k = ((s.reg x).getLsbD k ^^ (s.reg y).getLsbD k))
        (exec_xorVxVy x y s) fun _ _ => BitVec.getLsbD_xor⟩⟩

/-- An instruction that answers `writeFlagAndReg` writes its result, its flag where `x` is not 15, and nothing else (R131). -/
theorem writesFlagAnd_of_writeFlagAndReg {i : Instr} {s : State} {x : RegIdx} {flag result : Byte} {f r : Nat}
    (hexec : exec i s = writeFlagAndReg flag x result s) (hflag : flag.toNat = f) (hresult : result.toNat = r) :
    ∃ t, exec i s = .next t ∧ WritesFlagAnd x f r s t := by
  refine ⟨_, hexec, ?_, fun hx => ?_, fun q hqx hqf => ?_, rfl, (s.keeps_setFlagThenReg ..).advance.sameBut⟩
  · rw [State.advance_reg, State.reg_setFlagThenReg, if_pos rfl, hresult]
  · rw [State.advance_reg, State.reg_setFlagThenReg, if_neg hx.symm, if_pos rfl, hflag]
  · rw [State.advance_reg, State.reg_setFlagThenReg, if_neg hqx, if_neg hqf]

theorem carryFlag_toNat (a b : Byte) : (carryFlag a b).toNat = if 255 < a.toNat + b.toNat then 1 else 0 := by
  simp only [carryFlag, flagByte_toNat, decide_eq_true_eq, gt_iff_lt]

theorem greaterFlag_toNat (a b : Byte) : (greaterFlag a b).toNat = if b.toNat < a.toNat then 1 else 0 := by
  simp only [greaterFlag, flagByte_toNat, decide_eq_true_eq, gt_iff_lt]

theorem shrFlag_toNat (a : Byte) : (shrFlag a).toNat = a.toNat % 2 := by
  simp only [shrFlag, flagByte_toNat, BitVec.getLsbD, Nat.testBit_zero, decide_eq_true_eq]
  split <;> omega

theorem shlFlag_toNat (a : Byte) : (shlFlag a).toNat = a.toNat / 128 := by
  have := a.isLt
  simp only [shlFlag, flagByte_toNat, BitVec.getLsbD, Nat.testBit_eq_decide_div_mod_eq, decide_eq_true_eq]
  split <;> omega

/-- The wrapped difference of two bytes, as an integer modulo 256. -/
theorem byte_sub_toNat (a b : Byte) : (a - b).toNat = (((a.toNat : Int) - b.toNat) % 256).toNat := by
  have ha := a.isLt
  have hb := b.isLt
  rw [BitVec.toNat_sub]
  omega

/-- Settles O22: the carry and the sum are those of the operands as they were. -/
theorem addSetsCarryAndWraps : Obligations.AddSetsCarryAndWraps := fun x y s =>
  writesFlagAnd_of_writeFlagAndReg (exec_addVxVy x y s) (carryFlag_toNat ..) (BitVec.toNat_add ..)

/-- Settles O23: both subtractions compare and subtract the operands as they were. -/
theorem subtractionsSetTheStrictFlag : Obligations.SubtractionsSetTheStrictFlag := fun x y s =>
  ⟨writesFlagAnd_of_writeFlagAndReg (exec_subVxVy x y s) (greaterFlag_toNat ..) (byte_sub_toNat ..),
    writesFlagAnd_of_writeFlagAndReg (exec_subnVxVy x y s) (greaterFlag_toNat ..) (byte_sub_toNat ..)⟩

/-- Settles O24: the flag is the bit the shift drops, and the result what is left. -/
theorem shiftsMoveTheRegisterInPlace : Obligations.ShiftsMoveTheRegisterInPlace := fun x y s =>
  ⟨writesFlagAnd_of_writeFlagAndReg (exec_shrVx x y s) (shrFlag_toNat _)
      (by rw [BitVec.toNat_ushiftRight, Nat.shiftRight_eq_div_pow, pow_one]),
    writesFlagAnd_of_writeFlagAndReg (exec_shlVx x y s) (shlFlag_toNat _)
      (by rw [BitVec.toNat_shiftLeft, Nat.shiftLeft_eq, pow_one])⟩

/-- Settles O26: the sum is `writeIndex` of a saturated number. -/
theorem indexAddSaturates : Obligations.IndexAddSaturates := fun x s =>
  writesIndex_of_writeIndex (exec_addIVx x s) (by rw [sat16_toNat]; exact min_def ..)

/-! ## The random byte -/

/-- A byte under a mask has no bit outside it. -/
theorem and_mask_and_not (b mask : Byte) : b &&& mask &&& ~~~mask = 0 := by
  rw [BitVec.and_assoc, BitVec.and_not_self]
  exact BitVec.and_zero

/-- With bytes ready the port gives the first one (log 2). -/
theorem State.draw_of_queue {s : State} {r : Byte} {rest : List Byte} (h : s.randQueue = r :: rest) :
    s.rand8 = r ∧ s.afterDraw = { s with randQueue := rest } := by
  simp only [State.rand8, State.afterDraw, h, and_self]

/-- With none ready it gives a free byte, the next one each time (log 2). -/
theorem State.draw_of_empty {s : State} (h : s.randQueue = []) :
    s.rand8 = Config.freeByte s.randDraws ∧ s.afterDraw = { s with randDraws := s.randDraws + 1 } := by
  simp only [State.rand8, State.afterDraw, h, and_self]

/-- Settles O27: the byte drawn is the queue's head, which leaves the queue, or the free value at the counter, which goes on. -/
theorem randomByteIsMasked : Obligations.RandomByteIsMasked := by
  intro x nn s
  have hx : (s.afterDraw.setReg x (s.rand8 &&& nn)).advance.reg x = s.rand8 &&& nn := by
    rw [State.advance_reg, State.reg_setReg, if_pos rfl]
  refine ⟨_, exec_rnd x nn s, fun r hr => ?_, ?_, ?_, ?_, fun r rest hqueue => ?_, fun hqueue => ?_⟩
  · rw [State.advance_reg, State.reg_setReg, if_neg hr, State.afterDraw_reg]
  · rw [State.advance_pc, State.setReg_pc, State.afterDraw_pc]
  · exact (s.keeps_afterDraw_setReg_advance ..).sameBut
  · rw [hx, and_mask_and_not]
  · obtain ⟨hbyte, hport⟩ := State.draw_of_queue hqueue
    rw [hx, hbyte, hport]
    exact ⟨rfl, rfl, rfl⟩
  · obtain ⟨hbyte, hport⟩ := State.draw_of_empty hqueue
    rw [hx, hbyte, hport]
    exact ⟨rfl, hqueue, rfl⟩

/-! ## Display, keypad, sound timer -/

/-- Settles O28: CLS puts the cleared framebuffer in place and advances. -/
theorem clearTurnsEveryPixelOff : Obligations.ClearTurnsEveryPixelOff := fun s =>
  ⟨_, exec_cls s, clearDisplay_pixel, rfl, (s.keeps_setFb _).advance.sameBut⟩

/-- Settles O31: both skips go on by `State.skipIf` with the level `KeyPressed` reads, which is a key's own below 16. -/
theorem keySkipsFollowTheKeyLevel : Obligations.KeySkipsFollowTheKeyLevel := by
  intro x s
  refine ⟨⟨_, exec_skp x s, s.skipIf_pc _, s.sameBut_skipIf _⟩, ⟨_, exec_sknp x s, ?_, s.sameBut_skipIf _⟩,
    fun h => dif_neg (Nat.not_lt.mpr h), fun h => dif_pos h⟩
  rw [State.skipIf_pc]
  cases s.keyPressed (s.reg x) <;> rfl

/-- Settles O32: the latch decides between the state itself and the state with the key taken, stored and passed. -/
theorem keyWaitTakesTheLatchedKey : Obligations.KeyWaitTakesTheLatchedKey := by
  intro x s
  refine ⟨exec_ldVxK_none x, fun k hk => ⟨_, exec_ldVxK_some x hk, ?_, fun r hr => ?_, rfl, rfl, ?_⟩⟩
  · rw [State.advance_reg, State.reg_setReg, if_pos rfl, keyByte_toNat]
  · rw [State.advance_reg, State.reg_setReg, if_neg hr, State.keyTaken_reg]
  · exact (s.keeps_keyTaken_setReg_advance ..).sameBut

/-- Settles O34: the byte written is what `SOUND` compares with 0. -/
theorem soundTimerDrivesSound : Obligations.SoundTimerDrivesSound := by
  intro x s
  refine ⟨_, exec_ldStVx x s, rfl, rfl, (s.keeps_setSt _).advance.sameBut, ?_⟩
  rw [State.sound, State.advance_st, State.setSt_st, decide_eq_true_iff]
  exact not_congr BitVec.toNat_inj.symm

end Sys2Proof.Machine

/-! PROOFS. The call stack: a legal `SP` names its own entry, and stays legal one up below a full stack and one down above an empty one
(40_control_transfer.md R102, R103; 10_state.md R29, R30). -/

namespace Sys2Proof.Machine

/-- An instruction that raises a fault records it and changes nothing else (60_exceptions.md R203). -/
theorem faults_of_faultOf {i : Instr} {s : State} {f : FaultReg} {addr : Nat} (h : faultOf i s = some f) (haddr : f.addr.toNat = addr) :
    Faults i s f.cause addr :=
  ⟨_, exec_of_fault h, rfl, haddr, (s.keeps_setFault f).sameBut⟩

theorem toInt_eq_neg_one_iff : ∀ sp : BitVec 5, sp.toInt = -1 ↔ sp = spEmpty := by decide
theorem toInt_eq_fifteen_iff : ∀ sp : BitVec 5, sp.toInt = 15 ↔ sp = spFull := by decide

/-- A stack pointer with a live entry is the index of that entry. -/
theorem stackIdx_toInt {sp : BitVec 5} (hlegal : spLegal sp) (hlive : sp ≠ spEmpty) : ((stackIdx sp).toNat : Int) = sp.toInt := by
  unfold spLegal at hlegal
  decide +revert

/-- One entry above a stack that is not full. -/
theorem spLegal_succ {sp : BitVec 5} (hlegal : spLegal sp) (hroom : sp ≠ spFull) :
    spLegal (sp + 1) ∧ sp + 1 ≠ spEmpty ∧ (sp + 1).toInt = sp.toInt + 1 := by
  unfold spLegal at hlegal ⊢
  decide +revert

/-- One entry below a stack that is not empty. -/
theorem spLegal_pred {sp : BitVec 5} (hlegal : spLegal sp) (hlive : sp ≠ spEmpty) :
    spLegal (sp - 1) ∧ (sp - 1).toInt = sp.toInt - 1 := by
  unfold spLegal at hlegal ⊢
  decide +revert

/-- The entries after a push, by their indices. -/
theorem State.push_stack_getElem (s : State) (ret : Word) (k : RegIdx) :
    (s.push ret).stack[k.toNat]'(regIdx_lt k) =
      if (stackIdx (s.sp + 1)).toNat = k.toNat then ret else s.stack[k.toNat]'(regIdx_lt k) :=
  Vector.getElem_set (hi := regIdx_lt _) ..

/-- Settles O15: a CALL with room pushes and jumps, the new `SP` being the index of the new entry; a full stack is its fault. -/
theorem callPushesTheReturnAddress : Obligations.CallPushesTheReturnAddress := by
  intro nnn s hlegal
  refine ⟨fun hroom => ?_, fun hfull => ?_⟩
  · rw [ne_eq, toInt_eq_fifteen_iff] at hroom
    obtain ⟨hlegal', hlive, hsucc⟩ := spLegal_succ hlegal hroom
    have hidx := stackIdx_toInt hlegal' hlive
    refine ⟨_, exec_call nnn hroom, hsucc, addrOperand_toNat nnn, fun k hk => ?_, fun k hk => ?_,
      (s.keeps_push_jump ..).sameBut⟩
    · exact (s.push_stack_getElem _ k).trans (if_pos (Int.ofNat_inj.mp (hidx.trans hk.symm)))
    · exact (s.push_stack_getElem _ k).trans (if_neg fun h => hk ((congrArg Nat.cast h).symm.trans hidx))
  · have hfault : faultOf (.call nnn) s = some ⟨.stackOverflow, 0⟩ := if_pos ((toInt_eq_fifteen_iff _).mp hfull)
    exact faults_of_faultOf hfault rfl

/-- Settles O16: a RET with a live entry pops and jumps to it; an empty stack is its fault. -/
theorem returnPopsTheReturnAddress : Obligations.ReturnPopsTheReturnAddress := by
  intro s hlegal
  refine ⟨fun hlive => ?_, fun hempty => ?_⟩
  · rw [ne_eq, toInt_eq_neg_one_iff] at hlive
    refine ⟨_, exec_ret hlive, (spLegal_pred hlegal hlive).2, fun k hk => ?_, (s.keeps_pop_jump _).sameBut⟩
    obtain rfl : stackIdx s.sp = k := BitVec.eq_of_toNat_eq (Int.ofNat_inj.mp ((stackIdx_toInt hlegal hlive).trans hk.symm))
    rfl
  · have hfault : faultOf .ret s = some ⟨.stackUnderflow, 0⟩ := if_pos ((toInt_eq_neg_one_iff _).mp hempty)
    exact faults_of_faultOf hfault rfl

/-- Settles O17: the entry RET goes to is the one CALL pushed, and the pop takes back the push. -/
theorem returnResumesAfterTheCall : Obligations.ReturnResumesAfterTheCall := by
  intro nnn s t u hlegal hroom hcall hstack hsp
  obtain rfl : (s.push (s.pc + 2)).jump (addrOperand nnn) = t := exec_next_unique (exec_call nnn hroom) hcall
  have husp : u.sp = s.sp + 1 := hsp
  have hlive : u.sp ≠ spEmpty := husp ▸ (spLegal_succ hlegal hroom).2.1
  have htop : u.stackAt u.sp = (s.push (s.pc + 2)).stackAt (s.sp + 1) := by
    simp only [State.stackAt, hstack, husp, State.jump_stack]
  refine ⟨_, exec_ret hlive, ?_, ?_⟩
  · rw [State.jump_pc, htop, State.stackAt_push, if_pos rfl]
  · rw [State.jump_sp, State.pop_sp, husp, BitVec.add_sub_cancel]

end Sys2Proof.Machine

/-! PROOFS. DRW: the sprite's bits are those of the bytes at `I`, so the blitter's laws give the pixels and the collision mark
(44_display.md R150, R153). -/

namespace Sys2Proof.Machine

/-- The sprite read from memory puts the bits of the bytes at `I`. -/
theorem spriteBit_readBytes (s : State) (bx ty n px py : Nat) :
    spriteBit (s.mem.readBytes s.base n) bx ty px py = drawnBit s bx ty n px py := by
  rw [spriteBit, drawnBit, Memory.readBytes_length]
  by_cases hon : bx ≤ px ∧ px < bx + 8 ∧ ty ≤ py ∧ py < ty + n ∧ px < 64 ∧ py < 32
  · have hrow : py - ty < (s.mem.readBytes s.base n).length := by
      rw [Memory.readBytes_length]
      omega
    rw [List.getD_eq_getElem _ _ hrow, Memory.readBytes_getElem]
    rfl
  · rw [decide_eq_false hon, Bool.false_and, Bool.false_and]

theorem State.drawn_pixel (s : State) (x y : RegIdx) (n : BitVec 4) (px py : Nat) :
    FrameBuffer.pixel (s.drawn x y n).1 px py =
      (s.fb.pixel px py ^^ drawnBit s (s.reg x).toNat (s.reg y).toNat n.toNat px py) := by
  rw [State.drawn, drawSprite_pixel, spriteBit_readBytes]

theorem State.drawn_hit (s : State) (x y : RegIdx) (n : BitVec 4) :
    (s.drawn x y n).2 = true ↔
      ∃ px py, s.fb.pixel px py = true ∧ drawnBit s (s.reg x).toNat (s.reg y).toNat n.toNat px py = true := by
  simp only [State.drawn, drawSprite_hit, spriteBit_readBytes]

theorem collisionFlag_eq_one_or_zero (hit : Bool) : collisionFlag hit = 1 ∨ collisionFlag hit = 0 := by cases hit <;> decide

theorem collisionFlag_eq_one_iff (hit : Bool) : collisionFlag hit = 1 ↔ hit = true := by cases hit <;> decide

/-- Settles O29: DRW leaves the blitter's framebuffer and, in `VF`, its collision mark. -/
theorem drawTogglesTheSpritesPixels : Obligations.DrawTogglesTheSpritesPixels := by
  intro x y n s hin
  refine ⟨_, exec_drw x y (State.outside_eq_none.mpr hin), s.drawn_pixel x y n, ?_⟩
  have hvf : ((s.setReg vf (collisionFlag (s.drawn x y n).2)).setFb (s.drawn x y n).1).advance.reg vf =
      collisionFlag (s.drawn x y n).2 := by
    rw [State.advance_reg, State.setFb_reg, State.reg_setReg, if_pos rfl]
  rw [hvf]
  refine ⟨collisionFlag_eq_one_or_zero _, (collisionFlag_eq_one_iff _).trans (s.drawn_hit x y n), fun r hr => ?_, rfl,
    ((s.keeps_setReg ..).trans (State.keeps_setFb ..)).advance.sameBut⟩
  rw [State.advance_reg, State.setFb_reg, State.reg_setReg, if_neg hr]

/-- Settles O30: the first draw leaves all that the second one's sprite is made of, so each pixel is toggled twice by one bit; where the
first cleared none, every bit it drew is set when the second comes. -/
theorem drawTwiceRestoresTheScreen : Obligations.DrawTwiceRestoresTheScreen := by
  intro x y n s t u hx hy hin hfirst hsecond
  obtain ⟨t', ht, hpixel, -, hhit, hregs, -, hframe⟩ := drawTogglesTheSpritesPixels x y n s hin
  obtain rfl : t' = t := exec_next_unique ht hfirst
  have hindex : t'.index = s.index := hframe.index (by decide)
  obtain ⟨u', hu, hpixel', -, hhit', -⟩ := drawTogglesTheSpritesPixels x y n t' (hindex.symm ▸ hin)
  obtain rfl : u' = u := exec_next_unique hu hsecond
  have hsprite : ∀ px py, drawnBit t' (t'.reg x).toNat (t'.reg y).toNat n.toNat px py =
      drawnBit s (s.reg x).toNat (s.reg y).toNat n.toNat px py := fun px py => by
    simp only [drawnBit, hregs x hx, hregs y hy, hindex, hframe.mem (by decide)]
  refine ⟨fun px py => ?_, fun hclear ⟨px, py, hbit⟩ => ?_⟩
  · rw [hpixel', hpixel, hsprite, Bool.xor_assoc, Bool.xor_self, Bool.xor_false]
  · have hoff : s.fb.pixel px py = false := Bool.eq_false_of_not_eq_true fun hon => by
      rw [hhit.mpr ⟨px, py, hon, hbit⟩] at hclear
      exact absurd hclear (by decide)
    exact hhit'.mpr ⟨px, py, by rw [hpixel, hoff, hbit]; rfl, by rw [hsprite, hbit]⟩

end Sys2Proof.Machine

/-! PROOFS. The memory transfers within memory: a block write is read back at its own addresses and nowhere else
(47_memory_transfer.md R180 to R182). -/

namespace Sys2Proof.Machine

/-- A block written at `I` reads back byte by byte. -/
theorem State.get_written (s : State) (hwf : s.mem.wf) (bs : List Byte) {k : Nat} (hk : k < bs.length) :
    (s.mem.writeBytes s.base bs).get (s.index.toNat + k) = bs[k] :=
  Memory.get_writeBytes_inside bs s.mem hwf.1 s.base k hk

/-- Outside the block memory reads as before. -/
theorem State.get_not_written (s : State) (hwf : s.mem.wf) (bs : List Byte) {a : Nat}
    (ha : a < s.index.toNat ∨ s.index.toNat + bs.length ≤ a) : (s.mem.writeBytes s.base bs).get a = s.mem.get a :=
  Memory.get_writeBytes_outside bs s.mem hwf.1 s.base a ha

/-- After a block transfer within memory `I` is moved by `x`, without saturating. -/
theorem State.moveIndex_index_toNat (s : State) (x : RegIdx) (hin : s.index.toNat + x.toNat < 4096) :
    (s.moveIndex x).index.toNat = s.index.toNat + x.toNat := by
  rw [State.moveIndex_index, sat16_toNat]
  exact min_eq_left (hin.le.trans (by decide))

/-- Settles O35: the block written is the three digits that spell `V[x]`. -/
theorem bcdStoresThreeDigits : Obligations.BcdStoresThreeDigits := by
  intro x s hwf hin
  obtain ⟨h, t, o, hdigits, hh, ht, ho, hspell⟩ := bcdDigits_spell (s.reg x)
  have hread := fun k => s.get_written hwf (bcdDigits (s.reg x)) (k := k)
  have hother := fun a => s.get_not_written hwf (bcdDigits (s.reg x)) (a := a)
  have hexec := exec_ldBVx x (State.outside_eq_none.mpr (.inr hin))
  rw [hdigits] at hread hother hexec
  refine ⟨_, hexec, ?_, ?_, ?_, fun a ha => hother a (ha.imp_right Nat.succ_le_of_lt), rfl, (s.keeps_setMem _).advance.sameBut⟩
  · exact (congrArg BitVec.toNat (hread 0 (by simp))).trans (by show h.toNat = _; omega)
  · exact (congrArg BitVec.toNat (hread 1 (by simp))).trans (by show t.toNat = _; omega)
  · exact (congrArg BitVec.toNat (hread 2 (by simp))).trans (by show o.toNat = _; omega)

/-- Settles O36: the block written is `V[0]` to `V[x]`. -/
theorem blockStoreWritesTheRegisters : Obligations.BlockStoreWritesTheRegisters := by
  intro x s hwf hin
  refine ⟨_, exec_ldMemVx (State.outside_eq_none.mpr (.inr hin)), fun k hk => ?_, fun a ha => ?_,
    (s.setMem _).moveIndex_index_toNat x hin, rfl, ((s.keeps_setMem _).trans (State.keeps_moveIndex ..)).advance.sameBut⟩
  · have hlen : k.toNat < (s.regsUpTo x).length := by rw [State.regsUpTo_length]; omega
    exact (s.get_written hwf _ hlen).trans (s.regsUpTo_getElem x k hlen)
  · exact s.get_not_written hwf _ (ha.imp_right fun h => by rw [State.regsUpTo_length]; omega)

/-- A register after bytes were written to the registers from `V[0]` on. -/
theorem State.reg_setRegsFrom_zero (s : State) (bs : List Byte) (k : RegIdx) :
    (s.setRegs (setRegsFrom s.v 0 bs)).reg k = if h : k.toNat < bs.length then bs[k.toNat] else s.reg k := by
  rw [State.reg, State.setRegs]
  refine (setRegsFrom_getElem bs s.v 0 k.toNat (regIdx_lt k)).trans ?_
  simp only [Nat.zero_le, true_and, Nat.zero_add, Nat.sub_zero]
  rfl

/-- Settles O37: the bytes read from `I` on go to `V[0]` to `V[x]`. -/
theorem blockLoadReadsTheRegisters : Obligations.BlockLoadReadsTheRegisters := by
  intro x s hin
  have hreg := s.reg_setRegsFrom_zero (s.mem.readBytes s.base (x.toNat + 1))
  refine ⟨_, exec_ldVxMem (State.outside_eq_none.mpr (.inr hin)), fun k hk => ?_, fun k hk => ?_,
    (s.setRegs _).moveIndex_index_toNat x hin, rfl, ((s.keeps_setRegs _).trans (State.keeps_moveIndex ..)).advance.sameBut⟩
  · have hlen : k.toNat < (s.mem.readBytes s.base (x.toNat + 1)).length := by rw [Memory.readBytes_length]; omega
    rw [State.advance_reg, State.moveIndex_reg, hreg, dif_pos hlen, Memory.readBytes_getElem]
    rfl
  · have hlen : ¬ k.toNat < (s.mem.readBytes s.base (x.toNat + 1)).length := by rw [Memory.readBytes_length]; omega
    rw [State.advance_reg, State.moveIndex_reg, hreg, dif_neg hlen]

/-- Settles O38: the load reads the bytes the store wrote. -/
theorem storeThenLoadRestoresTheRegisters : Obligations.StoreThenLoadRestoresTheRegisters := by
  intro x s t u hwf hin hstore hmem hindex
  obtain ⟨t', ht, hstored, -⟩ := blockStoreWritesTheRegisters x s hwf hin
  obtain rfl : t' = t := exec_next_unique ht hstore
  obtain ⟨r, hr, hloaded, -⟩ := blockLoadReadsTheRegisters x u (hindex.symm ▸ hin)
  exact ⟨r, hr, fun k hk => by rw [hloaded k hk, hmem, hindex, hstored k hk]⟩

end Sys2Proof.Machine

/-! PROOFS. The faults of the instructions are those of the fault table (60_exceptions.md R200, R201). -/

namespace Sys2Proof.Machine

theorem State.faults_of_outside {i : Instr} {s : State} {n : Nat} (hi : faultOf i s = s.outside n) (hn : 0 < n)
    (hout : 4096 < s.index.toNat + n) : Faults i s .outOfRange (max s.index.toNat 4096) := by
  have haddr : (sat16 (max s.index.toNat 4096)).toNat = max s.index.toNat 4096 := by
    have := s.index.isLt
    rw [sat16_toNat]
    omega
  exact faults_of_faultOf (hi.trans (State.outside_eq_some.mpr ⟨⟨hn, hout⟩, rfl⟩)) haddr

/-- Settles O41: each of these accesses is the one its instruction's fault speaks of. -/
theorem dataAccessOutsideMemoryFaults : Obligations.DataAccessOutsideMemoryFaults := fun x y n _ =>
  ⟨fun hn hout => State.faults_of_outside (i := .drw x y n) rfl (Nat.pos_of_ne_zero hn) hout,
    fun hout => State.faults_of_outside (i := .ldBVx x) rfl (Nat.succ_pos _) (Nat.lt_succ_of_le hout),
    fun hout => State.faults_of_outside (i := .ldMemVx x) rfl (Nat.succ_pos _) (Nat.lt_succ_of_le hout),
    fun hout => State.faults_of_outside (i := .ldVxMem x) rfl (Nat.succ_pos _) (Nat.lt_succ_of_le hout)⟩

/-- The cause an instruction records where none was recorded. -/
def causeOf (i : Instr) (s : State) : FaultCause := (faultOf i s).elim .none FaultReg.cause

theorem State.outside_cause (s : State) (n : Nat) :
    (s.outside n).elim .none FaultReg.cause = if 0 < n ∧ 4096 < s.index.toNat + n then .outOfRange else .none := by
  cases h : s.outside n with
  | none => rw [if_neg (by have := State.outside_eq_none.mp h; omega)]; rfl
  | some f => rw [if_pos (State.outside_eq_some.mp h).1, Option.elim_some, State.cause_of_outside h]

theorem causeOf_ret (s : State) : causeOf .ret s = if s.sp = spEmpty then .stackUnderflow else .none := by
  simp only [causeOf, faultOf]
  split <;> rfl

theorem causeOf_call (nnn : BitVec 12) (s : State) : causeOf (.call nnn) s = if s.sp = spFull then .stackOverflow else .none := by
  simp only [causeOf, faultOf]
  split <;> rfl

theorem causeOf_eq_outOfRange_iff (i : Instr) (s : State) : causeOf i s = .outOfRange ↔
    (∃ x y n, i = .drw x y n ∧ 0 < n.toNat ∧ 4096 < s.index.toNat + n.toNat) ∨
    (∃ x, i = .ldBVx x ∧ 4096 ≤ s.index.toNat + 2) ∨
    (∃ x, (i = .ldMemVx x ∨ i = .ldVxMem x) ∧ 4096 ≤ s.index.toNat + x.toNat) := by
  cases i
  case ret => rw [causeOf_ret]; split <;> simp
  case call => rw [causeOf_call]; split <;> simp
  case drw => simp [causeOf, faultOf, State.outside_cause]
  case ldBVx | ldMemVx | ldVxMem => simp [causeOf, faultOf, State.outside_cause]; omega
  all_goals simp [causeOf, faultOf]

theorem causeOf_eq_stackOverflow_iff (i : Instr) (s : State) : causeOf i s = .stackOverflow ↔ ∃ nnn, i = .call nnn ∧ s.sp = spFull := by
  cases i
  case ret => rw [causeOf_ret]; split <;> simp
  case call => rw [causeOf_call]; split <;> simp [*]
  case drw | ldBVx | ldMemVx | ldVxMem => rw [causeOf, faultOf, State.outside_cause]; split <;> simp
  all_goals simp [causeOf, faultOf]

theorem causeOf_eq_stackUnderflow_iff (i : Instr) (s : State) : causeOf i s = .stackUnderflow ↔ i = .ret ∧ s.sp = spEmpty := by
  cases i
  case ret => rw [causeOf_ret]; split <;> simp [*]
  case call => rw [causeOf_call]; split <;> simp
  case drw | ldBVx | ldMemVx | ldVxMem => rw [causeOf, faultOf, State.outside_cause]; split <;> simp
  all_goals simp [causeOf, faultOf]

/-- Where no fault was recorded, an instruction leaves the cause of its own. -/
theorem exec_cause {i : Instr} {s t : State} (hnone : s.faultReg.cause = .none) (h : exec i s = .next t) :
    t.faultReg.cause = causeOf i s := by
  rw [causeOf]
  obtain ⟨f, hf, rfl⟩ | ⟨hf, hkeeps⟩ := exec_cases h
  · rw [hf]; rfl
  · rw [hf, faultReg_of_keeps hkeeps, hnone]; rfl

/-- Settles O42: the cause recorded is the instruction's own, and each cause has its instructions and conditions. -/
theorem instructionsFaultExactlyAsListed : Obligations.InstructionsFaultExactlyAsListed := by
  intro i s t hnone hexec
  rw [exec_cause hnone hexec]
  exact ⟨causeOf_eq_outOfRange_iff i s, causeOf_eq_stackOverflow_iff i s, causeOf_eq_stackUnderflow_iff i s⟩

end Sys2Proof.Machine

/-! PROOFS. What each state element's writers are among the instructions (10_state.md), and that the timers are the machine's only to
transfer: an instruction that does not name a timer does the same whatever it holds (46_timers.md). -/

namespace Sys2Proof.Machine

/-- An instruction changes no part but `FAULT` and those it may write. -/
theorem exec_keeps {i : Instr} {s t : State} (h : exec i s = .next t) : Keeps (.fault :: writtenParts i) s t := by
  obtain ⟨f, -, rfl⟩ | ⟨-, hkeeps⟩ := exec_cases h
  · exact (s.keeps_setFault f).mono (List.cons_subset_cons _ (List.nil_subset _))
  · exact hkeeps.mono (List.subset_cons_self _ _)

/-- A part an instruction changes is `FAULT` or one it may write. -/
theorem mem_writtenParts_of_changed {i : Instr} {s t : State} (h : exec i s = .next t) {p : Part} (hp : p ≠ .fault)
    (hchanged : ¬ p.Same s t) : p ∈ writtenParts i :=
  List.mem_of_ne_of_mem hp ((exec_keeps h).mem_of_changed hchanged)

/-- No instruction writes the keys, `RUN` or the schedule. -/
theorem exec_keeps_environment {i : Instr} {s t : State} (h : exec i s = .next t) :
    t.keys = s.keys ∧ t.run = s.run ∧ t.events = s.events ∧ t.eventTail = s.eventTail :=
  have hkeeps := exec_keeps h
  ⟨hkeeps.same .keys (by cases i <;> simp [writtenParts]), hkeeps.same .run (by cases i <;> simp [writtenParts]),
    hkeeps.same .events (by cases i <;> simp [writtenParts])⟩

/-- The key latch is only ever cleared, by the key wait (45_keypad.md R162, R165). -/
theorem exec_klatch_changed {i : Instr} {s t : State} (h : exec i s = .next t) (hchanged : t.klatch ≠ s.klatch) :
    t.klatch = none ∧ ∃ x, i = .ldVxK x := by
  have hwritten := mem_writtenParts_of_changed (p := .klatch) h (by decide) hchanged
  obtain ⟨x, rfl⟩ : ∃ x, i = .ldVxK x := by cases i <;> simp [writtenParts] at hwritten ⊢
  refine ⟨?_, x, rfl⟩
  cases hk : s.klatch with
  | none => exact absurd (congrArg State.klatch (exec_next_unique (exec_ldVxK_none x hk) h)).symm hchanged
  | some k => rw [← exec_next_unique (exec_ldVxK_some x hk) h]; rfl

/-- Writing one register changes `VF` only when it is that register. -/
theorem State.eq_vf_of_changed {s : State} {x : RegIdx} {b : Byte} (h : (s.setReg x b).reg vf ≠ s.reg vf) : x = vf :=
  by_contra fun hx => h (by rw [State.reg_setReg, if_neg (Ne.symm hx)])

/-- A block load that does not reach `V[15]` leaves it. -/
theorem State.eq_vf_of_load_changed {s : State} {x : RegIdx} {bs : List Byte} (hlen : bs.length = x.toNat + 1)
    (h : (s.setRegs (setRegsFrom s.v 0 bs)).reg vf ≠ s.reg vf) : x = vf := by
  by_contra hx
  have hne : x.toNat ≠ 15 := fun e => hx (BitVec.eq_of_toNat_eq e)
  have hbelow : ¬ vf.toNat < bs.length := by
    have := regIdx_lt x
    rw [hlen, show vf.toNat = 15 from rfl]
    omega
  exact h (by rw [State.reg_setRegsFrom_zero, dif_neg hbelow])

/-- The instructions that can change `VF` (10_state.md R23; D18): those with a flag, DRW, and those whose destination it is. -/
theorem exec_vf_changed {i : Instr} {s t : State} (h : exec i s = .next t) (hchanged : t.reg vf ≠ s.reg vf) :
    (∃ x y, i = .addVxVy x y ∨ i = .subVxVy x y ∨ i = .subnVxVy x y ∨ i = .shrVx x y ∨ i = .shlVx x y) ∨
    (∃ x y n, i = .drw x y n) ∨
    (∃ nn, i = .ldVxNn vf nn ∨ i = .addVxNn vf nn ∨ i = .rnd vf nn) ∨
    (∃ y, i = .ldVxVy vf y ∨ i = .orVxVy vf y ∨ i = .andVxVy vf y ∨ i = .xorVxVy vf y) ∨
    i = .ldVxDt vf ∨ i = .ldVxK vf ∨ i = .ldVxMem vf := by
  have hwritten := mem_writtenParts_of_changed (p := .regs) h (by decide) fun hv => hchanged (State.reg_congr hv vf)
  cases i
  case ldVxNn | addVxNn | ldVxVy | orVxVy | andVxVy | xorVxVy | ldVxDt =>
    cases h
    obtain rfl := State.eq_vf_of_changed (s := s) hchanged
    simp
  case rnd x nn =>
    cases h
    obtain rfl := State.eq_vf_of_changed (s := s.afterDraw) (s.afterDraw_reg vf ▸ hchanged)
    simp
  case ldVxK x =>
    cases hk : s.klatch with
    | none => exact absurd (congrArg (State.reg · vf) (exec_next_unique (exec_ldVxK_none x hk) h)).symm hchanged
    | some k =>
      rw [← exec_next_unique (exec_ldVxK_some x hk) h] at hchanged
      obtain rfl := State.eq_vf_of_changed (s := s.keyTaken) hchanged
      simp
  case ldVxMem x =>
    obtain ⟨-, hexec⟩ | ⟨-, hexec⟩ := exec_ldVxMem_cases x s <;> cases hexec.symm.trans h
    · obtain rfl := State.eq_vf_of_load_changed (s := s) (Memory.readBytes_length ..) hchanged
      simp
    · exact absurd rfl hchanged
  case addVxVy | subVxVy | subnVxVy | shrVx | shlVx | drw => simp
  all_goals simp [writtenParts] at hwritten

/-- The instructions that may write a part, part by part (10_state.md R28 to R36). -/
theorem writers_of_parts (i : Instr) :
    (.index ∈ writtenParts i → (∃ nnn, i = .ldINnn nnn) ∨ ∃ x, i = .addIVx x ∨ i = .ldFVx x ∨ i = .ldMemVx x ∨ i = .ldVxMem x) ∧
    (.stack ∈ writtenParts i → ∃ nnn, i = .call nnn) ∧
    (.sp ∈ writtenParts i → i = .ret ∨ ∃ nnn, i = .call nnn) ∧
    (.dt ∈ writtenParts i → ∃ x, i = .ldDtVx x) ∧
    (.st ∈ writtenParts i → ∃ x, i = .ldStVx x) ∧
    (.mem ∈ writtenParts i → ∃ x, i = .ldBVx x ∨ i = .ldMemVx x) ∧
    (.fb ∈ writtenParts i → i = .cls ∨ ∃ x y n, i = .drw x y n) := by
  cases i <;> simp [writtenParts]

/-- Settles O45: a part that changed is one the instruction may write, which leaves the instructions named. -/
theorem eachElementHasOnlyItsWriters : Obligations.EachElementHasOnlyItsWriters := by
  intro i s t h
  obtain ⟨hindex, hstack, hsp, hdt, hst, hmem, hfb⟩ := writers_of_parts i
  exact ⟨fun hc => hindex (mem_writtenParts_of_changed h (by decide) hc), fun hc => hstack (mem_writtenParts_of_changed h (by decide) hc),
    fun hc => hsp (mem_writtenParts_of_changed h (by decide) hc), fun hc => hdt (mem_writtenParts_of_changed h (by decide) hc),
    fun hc => hst (mem_writtenParts_of_changed h (by decide) hc), fun hc => hmem (mem_writtenParts_of_changed h (by decide) hc),
    fun hc => hfb (mem_writtenParts_of_changed h (by decide) hc), exec_klatch_changed h, exec_vf_changed h, exec_keeps_environment h⟩

/-! ## The timers -/

theorem exec_keeps_dt {i : Instr} {s t : State} (hdt : ∀ x, i ≠ .ldDtVx x) (h : exec i s = .next t) : t.dt = s.dt := by
  obtain ⟨-, -, -, hwriter, -⟩ := writers_of_parts i
  by_contra hc
  obtain ⟨x, hx⟩ := hwriter (mem_writtenParts_of_changed h (by decide) hc)
  exact hdt x hx

theorem exec_keeps_st {i : Instr} {s t : State} (hst : ∀ x, i ≠ .ldStVx x) (h : exec i s = .next t) : t.st = s.st := by
  obtain ⟨-, -, -, -, hwriter, -⟩ := writers_of_parts i
  by_contra hc
  obtain ⟨x, hx⟩ := hwriter (mem_writtenParts_of_changed h (by decide) hc)
  exact hst x hx

/-- The state with other timers. -/
def State.setTimers (s : State) (d e : Byte) : State := (s.setDt d).setSt e

theorem State.setTimers_afterDraw (s : State) (d e : Byte) : (s.setTimers d e).afterDraw = s.afterDraw.setTimers d e := by
  unfold State.afterDraw
  rw [show (s.setTimers d e).randQueue = s.randQueue from rfl]
  split <;> rfl

theorem State.setTimers_skipIf (s : State) (d e : Byte) (c : Bool) : (s.setTimers d e).skipIf c = (s.skipIf c).setTimers d e := by
  cases c <;> rfl

/-- An instruction that transfers no timer does the same whatever the timers hold. -/
theorem exec_setTimers {i : Instr} (hread : ∀ x, i ≠ .ldVxDt x) (hdt : ∀ x, i ≠ .ldDtVx x) (hst : ∀ x, i ≠ .ldStVx x) {s t : State}
    (d e : Byte) (h : exec i s = .next t) : exec i (s.setTimers d e) = .next (t.setTimers d e) := by
  have hfault : faultOf i (s.setTimers d e) = faultOf i s := by cases i <;> rfl
  cases hf : faultOf i s with
  | some f => exact exec_next_unique h (exec_of_fault hf) ▸ exec_of_fault (hfault.trans hf)
  | none =>
    rw [hf] at hfault
    cases i
    case ldVxDt x => exact absurd rfl (hread x)
    case ldDtVx x => exact absurd rfl (hdt x)
    case ldStVx x => exact absurd rfl (hst x)
    case ret => cases (exec_ret (sp_of_ret_no_fault hf)).symm.trans h; exact exec_ret (sp_of_ret_no_fault hfault)
    case call nnn => cases (exec_call nnn (sp_of_call_no_fault hf)).symm.trans h; exact exec_call nnn (sp_of_call_no_fault hfault)
    case drw x y n => cases (exec_drw x y hf).symm.trans h; exact exec_drw x y hfault
    case ldBVx x => cases (exec_ldBVx x hf).symm.trans h; exact exec_ldBVx x hfault
    case ldMemVx x => cases (exec_ldMemVx hf).symm.trans h; exact exec_ldMemVx hfault
    case ldVxMem x => cases (exec_ldVxMem hf).symm.trans h; exact exec_ldVxMem hfault
    case ldVxK x =>
      cases hk : s.klatch with
      | none => cases (exec_ldVxK_none x hk).symm.trans h; exact exec_ldVxK_none x hk
      | some k => cases (exec_ldVxK_some x hk).symm.trans h; exact exec_ldVxK_some x hk
    case rnd x nn =>
      cases h
      rw [exec_rnd, State.setTimers_afterDraw]
      rfl
    case seVxNn | sneVxNn | seVxVy | sneVxVy | skp | sknp => cases h; exact congrArg Host.Outcome.next (s.setTimers_skipIf d e _)
    all_goals cases h; rfl

/-- Settles O46: an instruction that transfers no timer is blind to them, the two transfers of `DT` keep the `ST` they find, and the
write of `ST` leaves the same byte whatever stood there. -/
theorem soundTimerIsNeverRead : Obligations.SoundTimerIsNeverRead := by
  intro i s t a h
  by_cases hread : ∃ x, i = .ldVxDt x
  · obtain ⟨x, rfl⟩ := hread
    cases h
    exact ⟨a, rfl⟩
  by_cases hdt : ∃ x, i = .ldDtVx x
  · obtain ⟨x, rfl⟩ := hdt
    cases h
    exact ⟨a, rfl⟩
  by_cases hst : ∃ x, i = .ldStVx x
  · obtain ⟨x, rfl⟩ := hst
    cases h
    exact ⟨s.reg x, rfl⟩
  have htimers : t.setTimers s.dt a = { t with st := a } := by rw [← exec_keeps_dt (not_exists.mp hdt) h]; rfl
  have hblind := exec_setTimers (not_exists.mp hread) (not_exists.mp hdt) (not_exists.mp hst) s.dt a h
  exact ⟨a, hblind.trans (congrArg Host.Outcome.next htimers)⟩

/-- Settles O47: a tick that is enabled writes `DT` alone, to which the instruction is blind, and the instruction leaves both `RUN` and
`DT` for the tick after it. -/
theorem delayTickCommutesWithOtherInstructions : Obligations.DelayTickCommutesWithOtherInstructions := by
  intro i s t hread hdt h
  obtain ⟨-, hrun, -⟩ := exec_keeps_environment h
  cases hr : s.run with
  | false => rw [State.dtTick, State.dtTick, hrun, hr]; exact h
  | true =>
    have hticked : t.dtTick = t.setDt (tickDown s.dt) := by rw [State.dtTick, if_pos (hrun.trans hr), exec_keeps_dt hdt h]
    rw [State.dtTick, if_pos hr, hticked]
    by_cases hst : ∃ x, i = .ldStVx x
    · obtain ⟨x, rfl⟩ := hst
      cases h
      rfl
    · have htimers : t.setTimers (tickDown s.dt) s.st = t.setDt (tickDown s.dt) := by
        rw [← exec_keeps_st (not_exists.mp hst) h]; rfl
      have hblind := exec_setTimers hread hdt (not_exists.mp hst) (tickDown s.dt) s.st h
      exact hblind.trans (congrArg Host.Outcome.next htimers)

end Sys2Proof.Machine

/-! PROOFS. One move of the machine: the `step` event with its fetch (40_control_transfer.md R100; 20_memory.md R56) and the other events
(60_exceptions.md R213 to R221; 45_keypad.md R160; 70_reset_and_hazards.md R240). -/

namespace Sys2Proof.Machine

/-! ## The schedule -/

/-- The next event is read from the schedule alone. -/
theorem State.nextEvent_congr {s t : State} (h : t.events = s.events ∧ t.eventTail = s.eventTail) : t.nextEvent = s.nextEvent := by
  rw [State.nextEvent, State.nextEvent, h.1, h.2]

/-- Settles O56: the three forms of the schedule are those of the definitions. -/
theorem eventsComeInTheScheduledOrder : Obligations.EventsComeInTheScheduledOrder := by
  intro s
  refine ⟨s.keeps_eventTaken.sameBut, fun e rest h => ?_, fun h htail => ?_, fun n h htail => ?_⟩
  · have htaken : s.eventTaken = s.setSchedule rest s.eventTail := by simp only [State.eventTaken, h]
    rw [htaken]
    exact ⟨by simp only [State.nextEvent, h], rfl, rfl⟩
  · simp only [State.nextEvent, State.eventTaken, h, htail, and_self]
  · have htaken : s.eventTaken = s.setSchedule [] (.free (n + 1)) := by simp only [State.eventTaken, h, htail]
    rw [htaken]
    exact ⟨by simp only [State.nextEvent, h, htail], rfl, rfl⟩

/-- A move is the event that comes next. -/
theorem step_of_nextEvent {s : State} {e : Event} (h : s.nextEvent = e) : step s = applyEvent e s.eventTaken := by rw [step_eq, h]

/-! ## The `step` event -/

theorem stepEvent_of_enabled {s : State} (hrun : s.run = true) (hnone : s.faultReg.cause = .none) : stepEvent s = instrCycle s := by
  obtain ⟨-, h⟩ | ⟨hdisabled, -⟩ := stepEvent_cases s
  · exact h
  · exact absurd ⟨hrun, hnone⟩ hdisabled

theorem stepEvent_of_disabled {s : State} (h : s.run = false ∨ s.faultReg.cause ≠ .none) : stepEvent s = .next s := by
  obtain ⟨⟨hrun, hnone⟩, -⟩ | ⟨-, h⟩ := stepEvent_cases s
  · exact absurd hnone (h.resolve_left (by rw [hrun]; decide))
  · exact h

/-- The cycle of an enabled `step` that comes next, from the state with the event taken. -/
theorem step_eq_instrCycle {s : State} (hrun : s.run = true) (hnone : s.faultReg.cause = .none) (hnext : s.nextEvent = .step) :
    step s = instrCycle s.eventTaken := by
  rw [step_of_nextEvent hnext]
  exact stepEvent_of_enabled (s.eventTaken_run.trans hrun) ((congrArg FaultReg.cause s.eventTaken_faultReg).trans hnone)

theorem instrCycle_of_inside {s : State} (h : s.pc.toNat + 2 ≤ 4096) :
    instrCycle s = exec (decode (wordOfBytes (s.mem.get s.pc.toNat) (s.mem.get (s.pc.toNat + 1)))) s := by
  obtain ⟨-, h⟩ | ⟨hout, -⟩ := instrCycle_cases s
  · exact h
  · exact absurd h (Nat.not_le.mpr hout)

theorem instrCycle_of_outside {s : State} (h : 4096 < s.pc.toNat + 2) :
    instrCycle s = .next (s.setFault ⟨.outOfRange, sat16 (max s.pc.toNat 4096)⟩) := by
  obtain ⟨hin, -⟩ | ⟨-, h⟩ := instrCycle_cases s
  · exact absurd h (Nat.not_lt.mpr hin)
  · exact h

/-- Settles O7: the cycle of the enabled `step` fetches the two bytes at `PC` and runs what they decode to. -/
theorem stepRunsTheDecodedInstruction : Obligations.StepRunsTheDecodedInstruction := by
  rintro s i ⟨hrun, hnone, hin, hbytes⟩
  have hdecode : decode (wordOfBytes (s.mem.get s.pc.toNat) (s.mem.get (s.pc.toNat + 1))) = i := by
    rw [decodeBytes_cons] at hbytes
    exact congrArg Prod.fst (Except.ok.inj hbytes)
  have hnextStep : s.nextEvent = .step → step s = exec i s.eventTaken := fun hnext => by
    rw [step_eq_instrCycle hrun hnone hnext, instrCycle_of_inside (s.eventTaken_pc ▸ hin), s.eventTaken_pc, s.eventTaken_mem, hdecode]
  refine ⟨hnextStep, fun hevents htail => ?_⟩
  obtain ⟨hnext, htaken⟩ := (eventsComeInTheScheduledOrder s).2.2.1 hevents htail
  rw [hnextStep hnext, htaken]

/-- Settles O8: the cycle of the enabled `step` faults at the first address of the fetch outside memory. -/
theorem fetchOutsideMemoryFaults : Obligations.FetchOutsideMemoryFaults := by
  intro s hrun hnone hpc hnext
  have hout : 4096 < s.eventTaken.pc.toNat + 2 := by rw [s.eventTaken_pc]; omega
  refine ⟨_, (step_eq_instrCycle hrun hnone hnext).trans (instrCycle_of_outside hout), rfl, ?_, (State.keeps_setFault ..).sameBut⟩
  have hlt := s.pc.isLt
  rw [State.setFault_faultReg, sat16_toNat, s.eventTaken_pc]
  split <;> omega

/-- Settles O9: the `step` event is disabled in the state with the event taken, as in the state itself. -/
theorem disabledStepChangesNothing : Obligations.DisabledStepChangesNothing := by
  intro s hdisabled hnext
  rw [step_of_nextEvent hnext]
  refine stepEvent_of_disabled ?_
  rwa [s.eventTaken_run, s.eventTaken_faultReg]

/-- Settles O10: the placed word is what the fetch reads, in a state where `step` is enabled and comes next. -/
theorem placedWordRunsNext : Obligations.PlacedWordRunsNext := by
  intro s w hwf hw
  have hword : tableWord 16 w = BitVec.ofNat 16 w := congrArg (BitVec.ofNat 16) (Nat.mod_eq_of_lt hw)
  have hcycle : step (s.withFetchWord 16 w) = instrCycle (s.withFetchWord 16 w) := step_eq_instrCycle rfl rfl rfl
  rw [hcycle, State.withFetchWord, hword, instrCycle, s.fetch_placeWord hwf]

/-- Settles O11: the block store leaves `PC` at its own address, where the next fetch reads `V[0]` and `V[1]`. -/
theorem storeIsSeenByTheNextFetch : Obligations.StoreIsSeenByTheNextFetch := by
  intro x s t hwf hx hindex hin hrun hnone hnext hexec
  obtain ⟨t', ht, hstored, -, -, hpc, hframe⟩ := blockStoreWritesTheRegisters x s hwf hin
  obtain rfl : t' = t := exec_next_unique ht hexec
  have hpc' : t'.pc = s.index := hpc.trans hindex.symm
  have hfirst : t'.mem.get s.index.toNat = s.reg 0 := hstored 0 (Nat.zero_le _)
  have hsecond : t'.mem.get (s.index.toNat + 1) = s.reg 1 := hstored 1 hx
  have hfetch : t'.eventTaken.pc.toNat + 2 ≤ 4096 := by rw [t'.eventTaken_pc, hpc']; omega
  have hnext' : t'.nextEvent = .step := (State.nextEvent_congr (hframe.events (by decide))).trans hnext
  rw [step_eq_instrCycle ((hframe.run (by decide)).trans hrun) ((congrArg _ (hframe.fault (by decide))).trans hnone) hnext',
    instrCycle_of_inside hfetch, t'.eventTaken_pc, t'.eventTaken_mem, hpc', hfirst, hsecond]

/-- Everything a `step` event that answers a state can have done. -/
theorem stepEvent_inv {s t : State} (h : stepEvent s = .next t) :
    t = s ∨ ((s.run = true ∧ s.faultReg.cause = .none) ∧
      ((4096 < s.pc.toNat + 2 ∧ t = s.setFault ⟨.outOfRange, sat16 (max s.pc.toNat 4096)⟩) ∨
        (s.pc.toNat + 2 ≤ 4096 ∧ ∃ i, exec i s = .next t))) := by
  obtain ⟨henabled, hstep⟩ | ⟨-, hstep⟩ := stepEvent_cases s
  · refine .inr ⟨henabled, ?_⟩
    obtain ⟨hin, hcycle⟩ | ⟨hout, hcycle⟩ := instrCycle_cases s
    · exact .inr ⟨hin, _, hcycle.symm.trans (hstep.symm.trans h)⟩
    · exact .inl ⟨hout, Host.Outcome.next.inj (h.symm.trans (hstep.trans hcycle))⟩
  · exact .inl (Host.Outcome.next.inj (h.symm.trans hstep))

/-- A `step` event that changes `FAULT` does nothing else, and starts with none recorded (R203). -/
theorem stepEvent_precise {s t : State} (h : stepEvent s = .next t) (hchanged : t.faultReg ≠ s.faultReg) :
    s.faultReg.cause = .none ∧ t = s.setFault t.faultReg := by
  obtain rfl | ⟨⟨-, hnone⟩, ⟨-, rfl⟩ | ⟨-, i, hexec⟩⟩ := stepEvent_inv h
  · exact absurd rfl hchanged
  · exact ⟨hnone, rfl⟩
  · obtain ⟨f, -, rfl⟩ | ⟨-, hkeeps⟩ := exec_cases hexec
    · exact ⟨hnone, rfl⟩
    · exact absurd (faultReg_of_keeps hkeeps) hchanged

/-- Settles O43: the move is the `step` event from the state with it taken, whose `FAULT` is the state's own. -/
theorem faultsArePrecise : Obligations.FaultsArePrecise := by
  intro s t hnext hstep hchanged
  rw [step_of_nextEvent hnext] at hstep
  obtain ⟨hnone, ht⟩ := stepEvent_precise hstep (s.eventTaken_faultReg.symm ▸ hchanged)
  exact ⟨(congrArg _ s.eventTaken_faultReg).symm.trans hnone, ht⟩

/-- At a jump to itself the `step` event leaves the state (70_reset_and_hazards.md R262). -/
theorem stepEvent_of_finished {s : State} (h : s.finished) : stepEvent s = .next s := by
  obtain ⟨nnn, hpc, hfetch⟩ := h
  obtain ⟨-, hstep⟩ | ⟨-, hstep⟩ := stepEvent_cases s
  · rw [hstep, instrCycle, hfetch]
    show exec (decode (encodeA 0x1 nnn)) s = _
    rw [decode_encodeA_jp, exec_jp, ← hpc, State.jump_self]
  · exact hstep

/-- Being finished is a matter of `PC` and memory. -/
theorem State.finished_congr {s t : State} (h : s.finished) (hpc : t.pc = s.pc) (hmem : t.mem = s.mem) : t.finished := by
  obtain ⟨nnn, hnnn, hfetch⟩ := h
  exact ⟨nnn, hpc.trans hnnn, by rw [State.fetch, hmem, hpc]; exact hfetch⟩

/-- Settles O53: the state with the event taken is finished too. -/
theorem finishedStateIsAFixedPoint : Obligations.FinishedStateIsAFixedPoint := by
  intro s hfinished hnext
  rw [step_of_nextEvent hnext]
  exact stepEvent_of_finished (State.finished_congr hfinished s.eventTaken_pc s.eventTaken_mem)

/-! ## All events -/

/-- Every instruction has a next state. -/
theorem exec_total (i : Instr) (s : State) : ∃ t, exec i s = .next t := by
  cases hf : faultOf i s with
  | some f => exact ⟨_, exec_of_fault hf⟩
  | none => exact (exec_of_no_fault hf).imp fun _ h => h.1

theorem stepEvent_total (s : State) : ∃ t, stepEvent s = .next t := by
  obtain ⟨-, hstep⟩ | ⟨-, hstep⟩ := stepEvent_cases s
  · obtain ⟨-, hcycle⟩ | ⟨-, hcycle⟩ := instrCycle_cases s
    · obtain ⟨t, ht⟩ := exec_total (decode (wordOfBytes (s.mem.get s.pc.toNat) (s.mem.get (s.pc.toNat + 1)))) s
      exact ⟨t, hstep.trans (hcycle.trans ht)⟩
    · exact ⟨_, hstep.trans hcycle⟩
  · exact ⟨s, hstep⟩

/-- Settles O12: of the events only a `reset` can be refused, for a `ROM` that is too long. -/
theorem everyMoveHasANextState : Obligations.EveryMoveHasANextState := by
  refine ⟨exec_total, fun s hfits => ?_⟩
  rw [step_eq]
  cases he : s.nextEvent with
  | reset image => exact ⟨_, if_pos (hfits image he)⟩
  | step => exact stepEvent_total _
  | start | stop | dtTick | stTick | keyDown | keyUp => exact ⟨_, rfl⟩

/-- While a fault is recorded, an event other than `reset` moves only the timers, the keypad and `RUN` (R206; D36). -/
theorem applyEvent_of_faulted {e : Event} {s t : State} (hfault : s.goneWrong) (h : applyEvent e s = .next t) :
    (∃ image, e = .reset image) ∨ Keeps [.dt, .st, .keys, .klatch, .run] s t := by
  cases e with
  | reset image => exact .inl ⟨image, rfl⟩
  | step => cases (stepEvent_of_disabled (.inr hfault)).symm.trans h; exact .inr (Keeps.refl _ s)
  | start => cases h; exact .inr (s.keeps_started.mono (by decide))
  | stop => cases h; exact .inr (s.keeps_stopped.mono (by decide))
  | dtTick => cases h; exact .inr (s.keeps_dtTick.mono (by decide))
  | stTick => cases h; exact .inr (s.keeps_stTick.mono (by decide))
  | keyDown k => cases h; exact .inr ((s.keeps_keyDown k).mono (by decide))
  | keyUp k => cases h; exact .inr ((s.keeps_keyUp k).mono (by decide))

/-- Settles O44: the event taken leaves the fault in place for the event itself. -/
theorem faultStaysUntilReset : Obligations.FaultStaysUntilReset := by
  intro s t hfault hstep
  have htaken : s.eventTaken.goneWrong := by rwa [State.goneWrong, s.eventTaken_faultReg]
  refine (applyEvent_of_faulted htaken hstep).imp_right fun hkeeps => ?_
  exact ((s.keeps_eventTaken.trans hkeeps).mono (qs := [.dt, .st, .keys, .klatch, .run, .events]) (by decide)).sameBut

/-! ## Ticks, key events, `start`, `stop` -/

/-- One tick of a timer of a machine that runs or not, as numbers (R215, R216). -/
theorem ticked_toNat (run : Bool) (b : Byte) :
    (if run then tickDown b else b).toNat = if run = true ∧ 0 < b.toNat then b.toNat - 1 else b.toNat := by
  cases run
  · simp
  · simp only [if_true, tickDown_toNat, true_and]
    split <;> omega

/-- Settles O48: a tick writes its timer alone. -/
theorem ticksCountTheirTimerDown : Obligations.TicksCountTheirTimerDown := by
  intro s
  refine ⟨fun hnext => ⟨_, step_of_nextEvent hnext, ?_, s.eventTaken.keeps_dtTick.sameBut⟩,
    fun hnext => ⟨_, step_of_nextEvent hnext, ?_, s.eventTaken.keeps_stTick.sameBut⟩⟩
  · rw [State.dtTick_dt, s.eventTaken_run, s.eventTaken_dt, ticked_toNat]
  · rw [State.stTick_st, s.eventTaken_run, s.eventTaken_st, ticked_toNat]

/-- Settles O49: a key event sets the level of its key, and a press the latch. -/
theorem keyEventsSetLevelAndLatch : Obligations.KeyEventsSetLevelAndLatch := by
  intro s k
  refine ⟨fun hnext => ⟨_, step_of_nextEvent hnext, rfl, fun q => ?_, (s.eventTaken.keeps_keyDown k).sameBut⟩,
    fun hnext => ⟨_, step_of_nextEvent hnext, fun q => ?_, (s.eventTaken.keeps_keyUp k).sameBut⟩⟩
  · rw [← s.eventTaken_keyPressed q]
    exact s.eventTaken.keyPressed_setKey k true q
  · rw [← s.eventTaken_keyPressed q]
    exact s.eventTaken.keyPressed_setKey k false q

/-- Settles O50: both write `RUN` alone. -/
theorem startAndStopWriteRunOnly : Obligations.StartAndStopWriteRunOnly := fun s =>
  ⟨fun hnext => ⟨_, step_of_nextEvent hnext, rfl, s.eventTaken.keeps_started.sameBut⟩,
    fun hnext => ⟨_, step_of_nextEvent hnext, rfl, s.eventTaken.keeps_stopped.sameBut⟩⟩

/-! ## Reset -/

theorem ResetImage.font_pairwise (image : ResetImage) : (Memory.writeBytes [] 0 image.font.toList).Pairwise (·.1 < ·.1) :=
  Memory.writeBytes_pairwise _ [] .nil 0

/-- The memory image holds `FONT` from 0 on (20_memory.md R55). -/
theorem ResetImage.get_font (image : ResetImage) (a : Nat) (h : a < 80) : image.memory.get a = image.font[a] := by
  have hlen : a < image.font.toList.length := by rwa [Vector.length_toList]
  rw [ResetImage.memory, Memory.get_writeBytes_outside _ _ image.font_pairwise _ _ (.inl (by rw [Config.romBase]; omega))]
  have hfont := Memory.get_writeBytes_inside image.font.toList [] .nil 0 a hlen
  rwa [Nat.zero_add, Vector.getElem_toList] at hfont

/-- It holds `ROM` from 0x200 on. -/
theorem ResetImage.get_rom (image : ResetImage) (a : Nat) (h : a < image.rom.length) : image.memory.get (0x200 + a) = image.rom[a] :=
  Memory.get_writeBytes_inside image.rom _ image.font_pairwise Config.romBase a h

/-- It holds 0 everywhere else. -/
theorem ResetImage.get_else (image : ResetImage) (a : Nat) (hfont : 80 ≤ a) (hrom : a < 0x200 ∨ 0x200 + image.rom.length ≤ a) :
    image.memory.get a = 0 := by
  have hlen : 0 + image.font.toList.length ≤ a := by rwa [Vector.length_toList, Nat.zero_add]
  rw [ResetImage.memory, Memory.get_writeBytes_outside _ _ image.font_pairwise Config.romBase _ hrom,
    Memory.get_writeBytes_outside _ [] .nil _ _ (.inr hlen), Memory.get_nil, Memory.unlisted, dif_neg (Nat.not_lt.mpr hfont)]

theorem State.reset_reg (r : RegIdx) : State.reset.reg r = 0 := Vector.getElem_replicate _

theorem State.reset_sp_toInt : State.reset.sp.toInt = -1 := by decide

theorem State.reset_keyPressed (q : Byte) : State.reset.keyPressed q = false := by
  unfold State.keyPressed
  split
  · exact Vector.getElem_replicate _
  · rfl

/-- Settles O51: the state left is `State.reset` with the memory image and the environment's own parts. -/
theorem resetLeavesTheResetState : Obligations.ResetLeavesTheResetState := by
  intro s image hnext
  rw [step_of_nextEvent hnext]
  refine ⟨fun hfits => ⟨_, if_pos hfits, rfl, State.reset_sp_toInt, State.reset_reg, rfl, fun k => Vector.getElem_replicate _, rfl, rfl,
    rfl, clearDisplay_pixel, State.reset_keyPressed, rfl, rfl, rfl, image.get_font, image.get_rom, image.get_else, rfl, rfl,
    s.eventTaken_randQueue, s.eventTaken_randDraws⟩, fun hlong => if_neg (Nat.not_le.mpr hlong)⟩

/-- Settles O52: the default `FONT` is what unlisted memory reads as, so its image is the empty memory; `RUN` is 0 at reset. -/
theorem resetStateIsResetWithNoRom : Obligations.ResetStateIsResetWithNoRom := by
  have hmem : ResetImage.memory ⟨Config.defaultFont, []⟩ = [] := by decide
  refine ⟨?_, (step_of_nextEvent (e := .step) rfl).trans (stepEvent_of_disabled (.inl rfl))⟩
  rw [State.afterReset, hmem]
  rfl

end Sys2Proof.Machine

/-! PROOFS. The invariant of the machine: an instruction that raises no fault keeps memory canonical, the stack legal and `PC` in range,
one that raises a fault records a legal one, and the other events keep the parts the invariant speaks of (10_state.md R26, R30). -/

namespace Sys2Proof.Machine

/-- What keeps the parts the invariant speaks of keeps the invariant. -/
theorem State.Inv.of_keeps {ps : List Part} {s t : State} (hinv : s.Inv) (h : Keeps ps s t)
    (hps : ∀ p ∈ [Part.mem, .sp, .stack, .pc, .fault], p ∉ ps) : t.Inv := by
  have hmem : t.mem = s.mem := h.same .mem (hps _ (by decide))
  have hsp : t.sp = s.sp := h.same .sp (hps _ (by decide))
  have hstack : t.stack = s.stack := h.same .stack (hps _ (by decide))
  have hpc : t.pc = s.pc := h.same .pc (hps _ (by decide))
  have hfault : t.faultReg = s.faultReg := h.same .fault (hps _ (by decide))
  exact ⟨hmem ▸ hinv.memWf, hsp ▸ hinv.spOk, hstack ▸ hinv.stackOk, hpc ▸ hinv.pcOk, by
    rw [State.faultLegal, hfault, hsp]; exact hinv.faultOk⟩

/-- A recorded `OUT_OF_RANGE` with an address outside memory is legal. -/
theorem State.Inv.setFault_outside {s : State} (hinv : s.Inv) (a : Nat) : (s.setFault ⟨.outOfRange, sat16 (max a 4096)⟩).Inv where
  memWf := hinv.memWf
  spOk := hinv.spOk
  stackOk := hinv.stackOk
  pcOk := hinv.pcOk
  faultOk := by
    show 4096 ≤ (sat16 (max a 4096)).toNat
    rw [sat16_toNat]
    omega

/-- The fault an instruction raises is legal: a stack fault with the `SP` it stands for, or an address outside memory (R201). -/
theorem State.Inv.setFault_of_faultOf {i : Instr} {s : State} {f : FaultReg} (hinv : s.Inv) (h : faultOf i s = some f) :
    (s.setFault f).Inv := by
  cases i
  case ret | call =>
    obtain ⟨hsp, ⟨⟩⟩ := (Option.ite_none_right_eq_some ..).mp h
    exact ⟨hinv.memWf, hinv.spOk, hinv.stackOk, hinv.pcOk, rfl, hsp⟩
  case drw | ldBVx | ldMemVx | ldVxMem =>
    obtain ⟨-, rfl⟩ := State.outside_eq_some.mp h
    exact hinv.setFault_outside _
  all_goals exact nomatch h

/-- Every write of memory is a block write within it. -/
theorem exec_mem_wf {i : Instr} {s t : State} (hwf : s.mem.wf) (hfault : faultOf i s = none) (h : exec i s = .next t) : t.mem.wf := by
  by_cases hsame : t.mem = s.mem
  · exact hsame ▸ hwf
  obtain ⟨-, -, -, -, -, hwriter, -⟩ := writers_of_parts i
  obtain ⟨x, rfl | rfl⟩ := hwriter (mem_writtenParts_of_changed h (by decide) hsame)
  · have hin := (State.outside_eq_none.mp hfault).resolve_left (by decide)
    rw [exec_next_unique h (exec_ldBVx x hfault)]
    exact Memory.writeBytes_wf _ hwf hin
  · have hin := (State.outside_eq_none.mp hfault).resolve_left (Nat.succ_ne_zero _)
    rw [exec_next_unique h (exec_ldMemVx hfault)]
    exact Memory.writeBytes_wf _ hwf (by rw [State.regsUpTo_length]; exact hin)

/-- CALL and RET keep the stack legal, and no other instruction touches it. -/
theorem exec_stack_legal {i : Instr} {s t : State} (hinv : s.Inv) (hpc : s.pc.toNat + 2 ≤ 4096) (hfault : faultOf i s = none)
    (h : exec i s = .next t) : spLegal t.sp ∧ ∀ k : RegIdx, (t.stack[k.toNat]'(regIdx_lt k)).toNat ≤ 0x1000 := by
  by_cases hcall : ∃ nnn, i = .call nnn
  · obtain ⟨nnn, rfl⟩ := hcall
    have hroom := sp_of_call_no_fault hfault
    rw [exec_next_unique h (exec_call nnn hroom)]
    refine ⟨(spLegal_succ hinv.spOk hroom).1, fun k => ?_⟩
    rw [State.jump_stack, State.push_stack_getElem]
    split
    · rw [BitVec.toNat_add, show (2 : Word).toNat = 2 from rfl]
      omega
    · exact hinv.stackOk k
  by_cases hret : i = .ret
  · obtain rfl := hret
    have hlive := sp_of_ret_no_fault hfault
    rw [exec_next_unique h (exec_ret hlive)]
    exact ⟨(spLegal_pred hinv.spOk hlive).1, hinv.stackOk⟩
  · obtain ⟨-, hstackWriter, hspWriter, -⟩ := writers_of_parts i
    have hsp : t.sp = s.sp := not_not.mp fun hc =>
      (hspWriter (mem_writtenParts_of_changed h (by decide) hc)).elim hret hcall
    have hstack : t.stack = s.stack := not_not.mp fun hc => hcall (hstackWriter (mem_writtenParts_of_changed h (by decide) hc))
    exact ⟨hsp ▸ hinv.spOk, hstack ▸ hinv.stackOk⟩

/-- Where an instruction that raises no fault goes on (40_control_transfer.md; 41_conditional_skip.md; 45_keypad.md R165). -/
theorem exec_pc_cases {i : Instr} {s t : State} (hfault : faultOf i s = none) (h : exec i s = .next t) :
    t.pc = s.pc ∨ t.pc = s.pc + 2 ∨ t.pc = s.pc + 4 ∨ (∃ (nnn : BitVec 12) (b : Byte), t.pc.toNat = nnn.toNat + b.toNat) ∨
      ∃ k : RegIdx, t.pc = s.stack[k.toNat]'(regIdx_lt k) := by
  cases i
  case jp nnn => cases h; exact .inr (.inr (.inr (.inl ⟨nnn, 0, addrOperand_toNat nnn⟩)))
  case call nnn =>
    rw [exec_next_unique h (exec_call nnn (sp_of_call_no_fault hfault))]
    exact .inr (.inr (.inr (.inl ⟨nnn, 0, addrOperand_toNat nnn⟩)))
  case jpV0 nnn =>
    obtain ⟨t', ht, hpc, -⟩ := jumpV0AddsRegisterZero nnn s
    exact .inr (.inr (.inr (.inl ⟨nnn, _, exec_next_unique ht h ▸ hpc⟩)))
  case ret =>
    rw [exec_next_unique h (exec_ret (sp_of_ret_no_fault hfault))]
    exact .inr (.inr (.inr (.inr ⟨stackIdx s.sp, rfl⟩)))
  case seVxNn | sneVxNn | seVxVy | sneVxVy | skp | sknp =>
    cases h
    rw [State.skipIf_pc]
    split
    · exact .inr (.inr (.inl rfl))
    · exact .inr (.inl rfl)
  case ldVxK x =>
    cases hk : s.klatch with
    | none => exact .inl (congrArg State.pc (exec_next_unique h (exec_ldVxK_none x hk)))
    | some k => exact .inr (.inl (congrArg State.pc (exec_next_unique h (exec_ldVxK_some x hk))))
  all_goals refine .inr (.inl ?_)
  case drw x y n => exact congrArg State.pc (exec_next_unique h (exec_drw x y hfault))
  case ldBVx x => exact congrArg State.pc (exec_next_unique h (exec_ldBVx x hfault))
  case ldMemVx x => exact congrArg State.pc (exec_next_unique h (exec_ldMemVx hfault))
  case ldVxMem x => exact congrArg State.pc (exec_next_unique h (exec_ldVxMem hfault))
  case rnd => cases h; rw [State.advance_pc, State.setReg_pc, State.afterDraw_pc]
  all_goals cases h; rfl

theorem exec_pc_le {i : Instr} {s t : State} (hinv : s.Inv) (hpc : s.pc.toNat + 2 ≤ 4096) (hfault : faultOf i s = none)
    (h : exec i s = .next t) : t.pc.toNat ≤ 0x10FE := by
  obtain heq | heq | heq | ⟨nnn, b, heq⟩ | ⟨k, heq⟩ := exec_pc_cases hfault h
  · rw [heq]; omega
  · rw [heq, BitVec.toNat_add, show (2 : Word).toNat = 2 from rfl]; omega
  · rw [heq, BitVec.toNat_add, show (4 : Word).toNat = 4 from rfl]; omega
  · have hnnn := nnn.isLt
    have hb := b.isLt
    rw [heq]; omega
  · rw [heq]; exact (hinv.stackOk k).trans (by decide)

/-- An instruction fetched from within memory, with no fault recorded, keeps the invariant. -/
theorem exec_keeps_inv {i : Instr} {s t : State} (hinv : s.Inv) (hnone : s.faultReg.cause = .none) (hpc : s.pc.toNat + 2 ≤ 4096)
    (h : exec i s = .next t) : t.Inv := by
  obtain ⟨f, hf, rfl⟩ | ⟨hfault, hkeeps⟩ := exec_cases h
  · exact hinv.setFault_of_faultOf hf
  · obtain ⟨hsp, hstack⟩ := exec_stack_legal hinv hpc hfault h
    have hlegal : t.faultLegal := by
      have haddr := hinv.faultOk
      rw [State.faultLegal, hnone] at haddr
      rw [State.faultLegal, faultReg_of_keeps hkeeps, hnone]
      exact haddr
    exact ⟨exec_mem_wf hinv.memWf hfault h, hsp, hstack, exec_pc_le hinv hpc hfault h, hlegal⟩

theorem stepEvent_keeps_inv {s t : State} (hinv : s.Inv) (h : stepEvent s = .next t) : t.Inv := by
  obtain rfl | ⟨⟨-, hnone⟩, ⟨-, rfl⟩ | ⟨hpc, i, hexec⟩⟩ := stepEvent_inv h
  · exact hinv
  · exact hinv.setFault_outside _
  · exact exec_keeps_inv hinv hnone hpc hexec

/-- A reset leaves the invariant, whatever was before. -/
theorem State.inv_afterReset (s : State) (image : ResetImage) (h : image.rom.length ≤ 3584) : (s.afterReset image).Inv where
  memWf := image.memory_wf h
  spOk := .inl rfl
  stackOk k := by
    show ((Vector.replicate 16 (0 : Word))[k.toNat]'(regIdx_lt k)).toNat ≤ 0x1000
    rw [Vector.getElem_replicate]
    decide
  pcOk := by show (0x200 : Word).toNat ≤ 0x10FE; decide
  faultOk := rfl

/-- Settles O55: the reset state is what a reset leaves. -/
theorem resetMeetsTheInvariant : Obligations.ResetMeetsTheInvariant := by
  rw [Obligations.ResetMeetsTheInvariant, resetStateIsResetWithNoRom.1]
  exact State.reset.inv_afterReset _ (Nat.zero_le _)

theorem applyEvent_keeps_inv {e : Event} {s t : State} (hinv : s.Inv) (h : applyEvent e s = .next t) : t.Inv := by
  cases e with
  | reset image =>
    obtain ⟨hfits, ht⟩ : image.rom.length ≤ 3584 ∧ s.afterReset image = t := by
      by_cases hfits : image.rom.length ≤ 3584
      · exact ⟨hfits, Host.Outcome.next.inj ((if_pos hfits).symm.trans h)⟩
      · exact nomatch (if_neg hfits).symm.trans h
    exact ht ▸ s.inv_afterReset image hfits
  | step => exact stepEvent_keeps_inv hinv h
  | start => cases h; exact hinv.of_keeps s.keeps_started (by decide)
  | stop => cases h; exact hinv.of_keeps s.keeps_stopped (by decide)
  | dtTick => cases h; exact hinv.of_keeps s.keeps_dtTick (by decide)
  | stTick => cases h; exact hinv.of_keeps s.keeps_stTick (by decide)
  | keyDown k => cases h; exact hinv.of_keeps (s.keeps_keyDown k) (by decide)
  | keyUp k => cases h; exact hinv.of_keeps (s.keeps_keyUp k) (by decide)

/-- Settles O54: taking the event keeps the invariant, and so does every event. -/
theorem everyMoveKeepsTheInvariant : Obligations.EveryMoveKeepsTheInvariant := fun s _ hinv hstep =>
  applyEvent_keeps_inv (hinv.of_keeps s.keeps_eventTaken (by decide)) hstep

end Sys2Proof.Machine

/-! PROOFS. The machine under an order of events: it plays every order from its schedule (60_exceptions.md R214), and once nothing but
timers and keys can move, the timers count the ticks that come (R215, R216). -/

namespace Sys2Proof.Machine

theorem playFrom_succ {order : Nat → Event} {n k : Nat} {s t : State} (h : applyEvent (order n) s = .next t) :
    playFrom order n (k + 1) s = playFrom order (n + 1) k t := by
  simp only [playFrom, h]

/-- The first event of an order that is followed to its end has a next state. -/
theorem playFrom_succ_inv {order : Nat → Event} {n k : Nat} {s u : State} (h : playFrom order n (k + 1) s = .next u) :
    ∃ t, applyEvent (order n) s = .next t ∧ playFrom order (n + 1) k t = .next u := by
  cases he : applyEvent (order n) s with
  | next t => exact ⟨t, rfl, (playFrom_succ he).symm.trans h⟩
  | fault r => simp [playFrom, he] at h
  | refused r => simp [playFrom, he] at h

theorem run_succ (M : Host.Core) {k : Nat} {s t : M.State} (h : M.step s = .next t) : M.run (k + 1) s = M.run k t := by
  rw [Host.Core.run, h]

/-- `k` moves under a list make its events, whatever comes after, and leave what comes after. -/
theorem run_listed (order : Nat → Event) (es : List Event) (tl : EventTail) (k n : Nat) (s u : State)
    (h : playFrom order n k s = .next u) :
    core.run k (s.setSchedule ((List.range k).map (fun j => order (n + j)) ++ es) tl) = .next (u.setSchedule es tl) := by
  induction k generalizing n s with
  | zero => cases h; rfl
  | succ k ih =>
    obtain ⟨t, ht, hrest⟩ := playFrom_succ_inv h
    have hevents : (List.range (k + 1)).map (fun j => order (n + j)) = order n :: (List.range k).map fun j => order (n + 1 + j) := by
      simp only [List.range_succ_eq_map, List.map_cons, List.map_map, Nat.add_zero, List.cons.injEq, true_and]
      exact List.map_congr_left fun j _ => congrArg order (by rw [Nat.succ_eq_add_one]; omega)
    rw [hevents, List.cons_append]
    exact (run_succ core ((step_setSchedule_cons _ _ _ s).trans (by rw [ht]; rfl))).trans (ih (n + 1) t hrest)

/-- `k` moves under the free order make its events, and leave it `k` further on. -/
theorem run_free (k n : Nat) (s u : State) (h : playFrom Config.freeEvent n k s = .next u) :
    core.run k (s.setSchedule [] (.free n)) = .next (u.setSchedule [] (.free (n + k))) := by
  induction k generalizing n s with
  | zero => cases h; rfl
  | succ k ih =>
    obtain ⟨t, ht, hrest⟩ := playFrom_succ_inv h
    rw [← Nat.add_assoc, Nat.add_right_comm]
    exact (run_succ core ((step_setSchedule_free n s).trans (by rw [ht]; rfl))).trans (ih (n + 1) t hrest)

/-- Playing an order leaves the schedule. -/
theorem playFrom_keeps_schedule {order : Nat → Event} {n k : Nat} {s u : State} (h : playFrom order n k s = .next u) :
    u.events = s.events ∧ u.eventTail = s.eventTail := by
  induction k generalizing n s with
  | zero => cases h; exact ⟨rfl, rfl⟩
  | succ k ih =>
    obtain ⟨t, ht, hrest⟩ := playFrom_succ_inv h
    obtain ⟨hevents, htail⟩ := applyEvent_keeps_schedule ht
    exact ⟨(ih hrest).1.trans hevents, (ih hrest).2.trans htail⟩

/-- Settles O57: by induction on the number of events, each move taking the next one of the schedule. -/
theorem machinePlaysEveryOrder : Obligations.MachinePlaysEveryOrder := by
  intro order n k s u h
  refine ⟨?_, fun hfree => run_free k n s u (hfree ▸ h)⟩
  obtain ⟨hevents, htail⟩ := playFrom_keeps_schedule h
  rw [run_listed order s.events s.eventTail k n s u h, ← hevents, ← htail]
  rfl

/-- Nothing but the timers, the keypad and the environment can move: a finished program, or a recorded fault, with `RUN` = 1. -/
def State.Idle (s : State) : Prop := (s.finished ∨ s.goneWrong) ∧ s.run = true

theorem State.Idle.of_keeps {ps : List Part} {s t : State} (hidle : s.Idle) (h : Keeps ps s t)
    (hps : ∀ p ∈ [Part.mem, .pc, .fault, .run], p ∉ ps) : t.Idle := by
  have hmem : t.mem = s.mem := h.same .mem (hps _ (by decide))
  have hpc : t.pc = s.pc := h.same .pc (hps _ (by decide))
  have hfault : t.faultReg = s.faultReg := h.same .fault (hps _ (by decide))
  have hrun : t.run = s.run := h.same .run (hps _ (by decide))
  refine ⟨hidle.1.imp (fun hfinished => State.finished_congr hfinished hpc hmem) fun hwrong => ?_, hrun.trans hidle.2⟩
  rwa [State.goneWrong, hfault]

/-- In an idle state an event other than `stop` and `reset` leads to an idle state, and a timer loses one at its own tick. -/
theorem applyEvent_of_idle {s : State} (hidle : s.Idle) {e : Event} (hstop : e ≠ .stop) (hreset : ∀ image, e ≠ .reset image) :
    ∃ t, applyEvent e s = .next t ∧ t.Idle ∧ t.dt.toNat = s.dt.toNat - (if e = .dtTick then 1 else 0) ∧
      t.st.toNat = s.st.toNat - (if e = .stTick then 1 else 0) := by
  cases e with
  | reset image => exact absurd rfl (hreset image)
  | stop => exact absurd rfl hstop
  | step =>
    have hstep : stepEvent s = .next s := hidle.1.elim stepEvent_of_finished fun hwrong => stepEvent_of_disabled (.inr hwrong)
    exact ⟨s, hstep, hidle, rfl, rfl⟩
  | start => exact ⟨_, rfl, ⟨hidle.1, rfl⟩, rfl, rfl⟩
  | dtTick =>
    refine ⟨_, rfl, hidle.of_keeps s.keeps_dtTick (by decide), ?_, congrArg _ s.dtTick_st⟩
    rw [State.dtTick_dt, if_pos hidle.2, tickDown_toNat, if_pos rfl]
  | stTick =>
    refine ⟨_, rfl, hidle.of_keeps s.keeps_stTick (by decide), congrArg _ s.stTick_dt, ?_⟩
    rw [State.stTick_st, if_pos hidle.2, tickDown_toNat, if_pos rfl]
  | keyDown k => exact ⟨_, rfl, hidle.of_keeps (s.keeps_keyDown k) (by decide), rfl, rfl⟩
  | keyUp k => exact ⟨_, rfl, hidle.of_keeps (s.keeps_keyUp k) (by decide), rfl, rfl⟩

/-- From an idle state every order without `stop` and `reset` can be followed as far as wanted, and each timer has lost as many as
there were ticks of it. -/
theorem playFrom_of_idle {order : Nat → Event} (hstop : ∀ j, order j ≠ .stop) (hreset : ∀ j image, order j ≠ .reset image)
    (k n : Nat) {s : State} (hidle : s.Idle) :
    ∃ t, playFrom order n k s = .next t ∧ t.dt.toNat = s.dt.toNat - Nat.count (fun j => order (n + j) = .dtTick) k ∧
      t.st.toNat = s.st.toNat - Nat.count (fun j => order (n + j) = .stTick) k := by
  induction k generalizing n s with
  | zero => exact ⟨s, rfl, rfl, rfl⟩
  | succ k ih =>
    obtain ⟨t, ht, hidle', hdt, hst⟩ := applyEvent_of_idle hidle (hstop n) (hreset n)
    obtain ⟨u, hu, hdt', hst'⟩ := ih (n + 1) hidle'
    have hcount : ∀ e : Event, Nat.count (fun j => order (n + j) = e) (k + 1) =
        Nat.count (fun j => order (n + 1 + j) = e) k + if order n = e then 1 else 0 := fun e => by
      rw [Nat.count_succ']
      simp only [Nat.add_zero, Nat.add_assoc, Nat.add_comm 1]
    refine ⟨u, (playFrom_succ ht).trans hu, ?_, ?_⟩
    · rw [hdt', hdt, hcount, Nat.sub_sub, Nat.add_comm]
    · rw [hst', hst, hcount, Nat.sub_sub, Nat.add_comm]

/-- An event that keeps coming comes as often as wanted. -/
theorem Endlessly.exists_le_count {order : Nat → Event} {e : Event} (h : Endlessly order e) (m : Nat) :
    ∃ n, ∀ k, n ≤ k → m ≤ Nat.count (fun j => order (0 + j) = e) k := by
  have hinf : {j | order (0 + j) = e}.Infinite := by
    refine Set.infinite_of_forall_exists_gt fun n => ?_
    obtain ⟨j, hj, he⟩ := h (n + 1)
    exact ⟨j, (congrArg order (Nat.zero_add j)).trans he, hj⟩
  exact ⟨_, fun k hk => (Nat.count_nth_of_infinite hinf m).symm.le.trans (Nat.count_monotone _ hk)⟩

/-- Settles O58: each timer counts down its ticks, and as many come as it holds. -/
theorem timersRunOutUnderEveryFairOrder : Obligations.TimersRunOutUnderEveryFairOrder := by
  intro order s hend hrun hstop hreset
  have hplay := fun k => playFrom_of_idle hstop hreset k 0 (⟨hend, hrun⟩ : s.Idle)
  refine ⟨fun hfair => ?_, fun hfair => ?_⟩
  · obtain ⟨n, hn⟩ := hfair.exists_le_count s.dt.toNat
    refine ⟨n, fun k hk => ?_⟩
    obtain ⟨t, ht, hdt, -⟩ := hplay k
    exact ⟨t, ht, BitVec.eq_of_toNat_eq (hdt.trans (Nat.sub_eq_zero_of_le (hn k hk)))⟩
  · obtain ⟨n, hn⟩ := hfair.exists_le_count s.st.toNat
    refine ⟨n, fun k hk => ?_⟩
    obtain ⟨t, ht, -, hst⟩ := hplay k
    have hzero : t.st = 0 := BitVec.eq_of_toNat_eq (hst.trans (Nat.sub_eq_zero_of_le (hn k hk)))
    exact ⟨t, ht, hzero, by rw [State.sound, hzero]; rfl⟩

end Sys2Proof.Machine
